-- ==== Sys2Proof/Word.lean ====
section
/-! DEFINITION. The word types (00_scope.md R6, R9, R10; 30_encoding.md R101). Every value is unsigned. -/

namespace Sys2Proof

/-- One byte of memory or of a register V0..VF. -/
abbrev Byte := BitVec 8

/-- An opcode, PC, I, OPC or a stack entry: 16 bits. -/
abbrev Word := BitVec 16

/-- The operand NNN, 12 bits. -/
abbrev Addr12 := BitVec 12

/-- The operand N, 4 bits. -/
abbrev Nibble := BitVec 4

/-- A register number 0..15, naming V0..VF (10_state.md R31). -/
abbrev Reg := Fin 16

/-- A key number 0..15 (10_state.md R42). -/
abbrev Key := Fin 16

/-- V0, the offset register of BNNN (10_state.md R31). -/
abbrev V0 : Reg := 0

/-- VF, the flag register (10_state.md R32). -/
abbrev VF : Reg := 15

end Sys2Proof
end

