-- ==== Sys2Proof/Syntax.lean ====
section
/-! DEFINITION. The 34 instructions of the opcode table, one constructor per row of spec/opcode_table.json, named as the spec
names them (00_scope.md R13, 30_encoding.md R120). Each carries every operand field its row encodes, also the Y field of 8XY6
and 8XYE, which is encoded and not read (42_alu.md R216, R220). -/

namespace Sys2Proof

inductive Instr where
  /-- 00E0, clear the screen. -/
  | op00E0
  /-- 00EE, return from subroutine. -/
  | op00EE
  /-- 1NNN, jump. -/
  | op1NNN (nnn : Addr12)
  /-- 2NNN, call subroutine. -/
  | op2NNN (nnn : Addr12)
  /-- 3XNN, skip if equal to immediate. -/
  | op3XNN (x : Reg) (nn : Byte)
  /-- 4XNN, skip if not equal to immediate. -/
  | op4XNN (x : Reg) (nn : Byte)
  /-- 5XY0, skip if registers equal. -/
  | op5XY0 (x y : Reg)
  /-- 6XNN, load immediate. -/
  | op6XNN (x : Reg) (nn : Byte)
  /-- 7XNN, add immediate, no flag. -/
  | op7XNN (x : Reg) (nn : Byte)
  /-- 8XY0, copy register. -/
  | op8XY0 (x y : Reg)
  /-- 8XY1, bitwise OR. -/
  | op8XY1 (x y : Reg)
  /-- 8XY2, bitwise AND. -/
  | op8XY2 (x y : Reg)
  /-- 8XY3, bitwise XOR. -/
  | op8XY3 (x y : Reg)
  /-- 8XY4, add with carry out. -/
  | op8XY4 (x y : Reg)
  /-- 8XY5, subtract VY from VX. -/
  | op8XY5 (x y : Reg)
  /-- 8XY6, shift right by one. -/
  | op8XY6 (x y : Reg)
  /-- 8XY7, subtract VX from VY. -/
  | op8XY7 (x y : Reg)
  /-- 8XYE, shift left by one. -/
  | op8XYE (x y : Reg)
  /-- 9XY0, skip if registers not equal. -/
  | op9XY0 (x y : Reg)
  /-- ANNN, load index. -/
  | opANNN (nnn : Addr12)
  /-- BNNN, jump with offset V0. -/
  | opBNNN (nnn : Addr12)
  /-- CXNN, random masked byte. -/
  | opCXNN (x : Reg) (nn : Byte)
  /-- DXYN, draw sprite with collision. -/
  | opDXYN (x y : Reg) (n : Nibble)
  /-- EX9E, skip if key pressed. -/
  | opEX9E (x : Reg)
  /-- EXA1, skip if key not pressed. -/
  | opEXA1 (x : Reg)
  /-- FX07, read delay timer. -/
  | opFX07 (x : Reg)
  /-- FX0A, wait for a key. -/
  | opFX0A (x : Reg)
  /-- FX15, set delay timer. -/
  | opFX15 (x : Reg)
  /-- FX18, set sound timer. -/
  | opFX18 (x : Reg)
  /-- FX1E, add register to index. -/
  | opFX1E (x : Reg)
  /-- FX29, point index at a font glyph. -/
  | opFX29 (x : Reg)
  /-- FX33, store decimal digits. -/
  | opFX33 (x : Reg)
  /-- FX55, store registers V0..VX. -/
  | opFX55 (x : Reg)
  /-- FX65, load registers V0..VX. -/
  | opFX65 (x : Reg)
  deriving DecidableEq, Repr

end Sys2Proof
end

