-- ==== Sys2Proof/WellFormed.lean ====
section
/-! DEFINITION. Well-formedness of an instruction: its operands fit the fields of its format (30_encoding.md R102, R103).
The check is on plain operand numbers, so that it refuses what no field can hold; the operand types of Instr are exactly the
fields' ranges, so every term of Instr passes it (Laws/PerInstr.lean proves this, one lemma per constructor). -/

namespace Sys2Proof

/-- The instruction formats of 30_encoding.md R102. -/
inductive Format where
  | fixed
  | addr
  | xImm
  | xySub
  | xyN
  | xSub
  deriving DecidableEq, Repr

/-- The widths in bits of a format's operand fields, from the high bits of the opcode down (R102, R103). -/
def Format.widths : Format → List Nat
  | .fixed => []
  | .addr => [12]
  | .xImm => [4, 8]
  | .xySub => [4, 4]
  | .xyN => [4, 4, 4]
  | .xSub => [4]

/-- The operand numbers given are as many as the format has fields, and each fits its field (R103). -/
def Format.fits (f : Format) (operands : List Nat) : Bool :=
  operands.length == f.widths.length && (operands.zip f.widths).all fun p => p.1 < 2 ^ p.2

/-- An instruction's format, the column of 30_encoding.md R120. -/
def Instr.format : Instr → Format
  | .op00E0 | .op00EE => .fixed
  | .op1NNN _ | .op2NNN _ | .opANNN _ | .opBNNN _ => .addr
  | .op3XNN _ _ | .op4XNN _ _ | .op6XNN _ _ | .op7XNN _ _ | .opCXNN _ _ => .xImm
  | .op5XY0 _ _ | .op8XY0 _ _ | .op8XY1 _ _ | .op8XY2 _ _ | .op8XY3 _ _ | .op8XY4 _ _ | .op8XY5 _ _
  | .op8XY6 _ _ | .op8XY7 _ _ | .op8XYE _ _ | .op9XY0 _ _ => .xySub
  | .opDXYN _ _ _ => .xyN
  | .opEX9E _ | .opEXA1 _ | .opFX07 _ | .opFX0A _ | .opFX15 _ | .opFX18 _ | .opFX1E _ | .opFX29 _
  | .opFX33 _ | .opFX55 _ | .opFX65 _ => .xSub

/-- An instruction's operands as plain numbers, in the order of its fields. -/
def Instr.operands : Instr → List Nat
  | .op00E0 | .op00EE => []
  | .op1NNN a | .op2NNN a | .opANNN a | .opBNNN a => [a.toNat]
  | .op3XNN x b | .op4XNN x b | .op6XNN x b | .op7XNN x b | .opCXNN x b => [x.val, b.toNat]
  | .op5XY0 x y | .op8XY0 x y | .op8XY1 x y | .op8XY2 x y | .op8XY3 x y | .op8XY4 x y | .op8XY5 x y
  | .op8XY6 x y | .op8XY7 x y | .op8XYE x y | .op9XY0 x y => [x.val, y.val]
  | .opDXYN x y n => [x.val, y.val, n.toNat]
  | .opEX9E x | .opEXA1 x | .opFX07 x | .opFX0A x | .opFX15 x | .opFX18 x | .opFX1E x | .opFX29 x
  | .opFX33 x | .opFX55 x | .opFX65 x => [x.val]

/-- The instruction's operands fit its format. -/
def Instr.wellFormed (ins : Instr) : Bool :=
  ins.format.fits ins.operands

end Sys2Proof
end

