-- ==== Sys2Proof/Decode.lean ====
section
/-! DEFINITION. The decoder and the encoder (30_encoding.md). The decoder is the spec's strict match/mask table: a word is
the instruction of the unique row with (op AND mask) = match, and every other word is rejected by name (R105, R107, R108).
The encoder writes an instruction's word from the layouts of R102 and the match column of R120. -/

namespace Sys2Proof

/-! ## Fields of an opcode (R101) and byte order (20_memory.md R73) -/

/-- `x` = op[11:8]. -/
def fieldX (op : Word) : Reg := (op.extractLsb' 8 4).toFin

/-- `y` = op[7:4]. -/
def fieldY (op : Word) : Reg := (op.extractLsb' 4 4).toFin

/-- `n` = op[3:0]. -/
def fieldN (op : Word) : Nibble := op.extractLsb' 0 4

/-- `nn` = op[7:0]. -/
def fieldNN (op : Word) : Byte := op.extractLsb' 0 8

/-- `nnn` = op[11:0]. -/
def fieldNNN (op : Word) : Addr12 := op.extractLsb' 0 12

/-- The byte at the lower address is the high byte (20_memory.md R73). -/
def wordOfBytes (hi lo : Byte) : Word := hi ++ lo

/-- The byte an opcode has at its lower address. -/
def highByte (op : Word) : Byte := op.extractLsb' 8 8

/-- The byte an opcode has at its higher address. -/
def lowByte (op : Word) : Byte := op.extractLsb' 0 8

/-! ## The opcode table (R120) -/

/-- One row of the opcode table: `pattern` is the column the spec calls match. -/
structure Row where
  mnemonic : String
  pattern : Word
  mask : Word
  build : Word → Instr

/-- The rows of families 0x0 to 0x7. -/
def rowsLow : List Row :=
  [⟨"00E0", 0x00E0, 0xFFFF, fun _ => .op00E0⟩,
   ⟨"00EE", 0x00EE, 0xFFFF, fun _ => .op00EE⟩,
   ⟨"1NNN", 0x1000, 0xF000, fun op => .op1NNN (fieldNNN op)⟩,
   ⟨"2NNN", 0x2000, 0xF000, fun op => .op2NNN (fieldNNN op)⟩,
   ⟨"3XNN", 0x3000, 0xF000, fun op => .op3XNN (fieldX op) (fieldNN op)⟩,
   ⟨"4XNN", 0x4000, 0xF000, fun op => .op4XNN (fieldX op) (fieldNN op)⟩,
   ⟨"5XY0", 0x5000, 0xF00F, fun op => .op5XY0 (fieldX op) (fieldY op)⟩,
   ⟨"6XNN", 0x6000, 0xF000, fun op => .op6XNN (fieldX op) (fieldNN op)⟩,
   ⟨"7XNN", 0x7000, 0xF000, fun op => .op7XNN (fieldX op) (fieldNN op)⟩]

/-- The rows of family 0x8. -/
def rowsAlu : List Row :=
  [⟨"8XY0", 0x8000, 0xF00F, fun op => .op8XY0 (fieldX op) (fieldY op)⟩,
   ⟨"8XY1", 0x8001, 0xF00F, fun op => .op8XY1 (fieldX op) (fieldY op)⟩,
   ⟨"8XY2", 0x8002, 0xF00F, fun op => .op8XY2 (fieldX op) (fieldY op)⟩,
   ⟨"8XY3", 0x8003, 0xF00F, fun op => .op8XY3 (fieldX op) (fieldY op)⟩,
   ⟨"8XY4", 0x8004, 0xF00F, fun op => .op8XY4 (fieldX op) (fieldY op)⟩,
   ⟨"8XY5", 0x8005, 0xF00F, fun op => .op8XY5 (fieldX op) (fieldY op)⟩,
   ⟨"8XY6", 0x8006, 0xF00F, fun op => .op8XY6 (fieldX op) (fieldY op)⟩,
   ⟨"8XY7", 0x8007, 0xF00F, fun op => .op8XY7 (fieldX op) (fieldY op)⟩,
   ⟨"8XYE", 0x800E, 0xF00F, fun op => .op8XYE (fieldX op) (fieldY op)⟩]

/-- The rows of families 0x9 to 0xE. -/
def rowsHigh : List Row :=
  [⟨"9XY0", 0x9000, 0xF00F, fun op => .op9XY0 (fieldX op) (fieldY op)⟩,
   ⟨"ANNN", 0xA000, 0xF000, fun op => .opANNN (fieldNNN op)⟩,
   ⟨"BNNN", 0xB000, 0xF000, fun op => .opBNNN (fieldNNN op)⟩,
   ⟨"CXNN", 0xC000, 0xF000, fun op => .opCXNN (fieldX op) (fieldNN op)⟩,
   ⟨"DXYN", 0xD000, 0xF000, fun op => .opDXYN (fieldX op) (fieldY op) (fieldN op)⟩,
   ⟨"EX9E", 0xE09E, 0xF0FF, fun op => .opEX9E (fieldX op)⟩,
   ⟨"EXA1", 0xE0A1, 0xF0FF, fun op => .opEXA1 (fieldX op)⟩]

/-- The rows of family 0xF. -/
def rowsMisc : List Row :=
  [⟨"FX07", 0xF007, 0xF0FF, fun op => .opFX07 (fieldX op)⟩,
   ⟨"FX0A", 0xF00A, 0xF0FF, fun op => .opFX0A (fieldX op)⟩,
   ⟨"FX15", 0xF015, 0xF0FF, fun op => .opFX15 (fieldX op)⟩,
   ⟨"FX18", 0xF018, 0xF0FF, fun op => .opFX18 (fieldX op)⟩,
   ⟨"FX1E", 0xF01E, 0xF0FF, fun op => .opFX1E (fieldX op)⟩,
   ⟨"FX29", 0xF029, 0xF0FF, fun op => .opFX29 (fieldX op)⟩,
   ⟨"FX33", 0xF033, 0xF0FF, fun op => .opFX33 (fieldX op)⟩,
   ⟨"FX55", 0xF055, 0xF0FF, fun op => .opFX55 (fieldX op)⟩,
   ⟨"FX65", 0xF065, 0xF0FF, fun op => .opFX65 (fieldX op)⟩]

/-- The 34 rows of 30_encoding.md R120. -/
def opcodeTable : List Row :=
  rowsLow ++ rowsAlu ++ rowsHigh ++ rowsMisc

/-- The row matches the word: (op AND mask) = match (R105). -/
def Row.accepts (r : Row) (op : Word) : Bool :=
  op &&& r.mask == r.pattern

/-! ## The decoder -/

/-- Why the decoder reads no instruction. -/
inductive Reject where
  /-- No row of the table matches: the word is Unknown, named "???" (R105, R107). The engine runs it as a no-op advance. -/
  | unknownOpcode
  /-- Fewer than two bytes are given. The engine's own fetch never decodes such a list. -/
  | truncated
  deriving DecidableEq, Repr

/-- `decode(op)` of 30_encoding.md R105: the row of the table that matches, or the rejection of an Unknown word. -/
def decode (op : Word) : Except Reject Instr :=
  match opcodeTable.find? (fun r => r.accepts op) with
  | some r => .ok (r.build op)
  | none => .error .unknownOpcode

/-- The instruction at the head of a list of bytes, and the bytes after it. Every instruction is two bytes (R100). -/
def decodeBytes : List Byte → Except Reject (Instr × List Byte)
  | hi :: lo :: rest =>
    match decode (wordOfBytes hi lo) with
    | .ok ins => .ok (ins, rest)
    | .error e => .error e
  | _ => .error .truncated

/-! ## The encoder -/

/-- A register number as the four bits of its field. -/
def regBits (r : Reg) : BitVec 4 := BitVec.ofFin r

/-- Format addr: `oooo nnnn nnnn nnnn` (R102). -/
def layoutAddr (o : BitVec 4) (a : Addr12) : Word := o ++ a

/-- Formats x-imm and x-sub: `oooo xxxx` and eight bits of immediate or sub-opcode (R102). -/
def layoutImm (o : BitVec 4) (x : Reg) (b : Byte) : Word := o ++ regBits x ++ b

/-- Formats x-y-sub and x-y-n: `oooo xxxx yyyy` and four bits of sub-opcode or N (R102). -/
def layoutXY (o : BitVec 4) (x y : Reg) (n : BitVec 4) : Word := o ++ regBits x ++ regBits y ++ n

/-- The opcode of an instruction: the layouts of R102, with the fixed bits of R120's match column. -/
def encode : Instr → Word
  | .op00E0 => 0x00E0#16
  | .op00EE => 0x00EE#16
  | .op1NNN a => layoutAddr 0x1 a
  | .op2NNN a => layoutAddr 0x2 a
  | .op3XNN x b => layoutImm 0x3 x b
  | .op4XNN x b => layoutImm 0x4 x b
  | .op5XY0 x y => layoutXY 0x5 x y 0x0
  | .op6XNN x b => layoutImm 0x6 x b
  | .op7XNN x b => layoutImm 0x7 x b
  | .op8XY0 x y => layoutXY 0x8 x y 0x0
  | .op8XY1 x y => layoutXY 0x8 x y 0x1
  | .op8XY2 x y => layoutXY 0x8 x y 0x2
  | .op8XY3 x y => layoutXY 0x8 x y 0x3
  | .op8XY4 x y => layoutXY 0x8 x y 0x4
  | .op8XY5 x y => layoutXY 0x8 x y 0x5
  | .op8XY6 x y => layoutXY 0x8 x y 0x6
  | .op8XY7 x y => layoutXY 0x8 x y 0x7
  | .op8XYE x y => layoutXY 0x8 x y 0xE
  | .op9XY0 x y => layoutXY 0x9 x y 0x0
  | .opANNN a => layoutAddr 0xA a
  | .opBNNN a => layoutAddr 0xB a
  | .opCXNN x b => layoutImm 0xC x b
  | .opDXYN x y n => layoutXY 0xD x y n
  | .opEX9E x => layoutImm 0xE x 0x9E
  | .opEXA1 x => layoutImm 0xE x 0xA1
  | .opFX07 x => layoutImm 0xF x 0x07
  | .opFX0A x => layoutImm 0xF x 0x0A
  | .opFX15 x => layoutImm 0xF x 0x15
  | .opFX18 x => layoutImm 0xF x 0x18
  | .opFX1E x => layoutImm 0xF x 0x1E
  | .opFX29 x => layoutImm 0xF x 0x29
  | .opFX33 x => layoutImm 0xF x 0x33
  | .opFX55 x => layoutImm 0xF x 0x55
  | .opFX65 x => layoutImm 0xF x 0x65

/-- The bytes of an instruction as memory holds them, lower address first (R100, 20_memory.md R73). -/
def encodeBytes (ins : Instr) : List Byte :=
  [highByte (encode ins), lowByte (encode ins)]

/-! ## The name of an instruction (R131) -/

/-- An instruction's name, the `name` column of R120. -/
def Instr.mnemonic : Instr → String
  | .op00E0 => "00E0"
  | .op00EE => "00EE"
  | .op1NNN _ => "1NNN"
  | .op2NNN _ => "2NNN"
  | .op3XNN _ _ => "3XNN"
  | .op4XNN _ _ => "4XNN"
  | .op5XY0 _ _ => "5XY0"
  | .op6XNN _ _ => "6XNN"
  | .op7XNN _ _ => "7XNN"
  | .op8XY0 _ _ => "8XY0"
  | .op8XY1 _ _ => "8XY1"
  | .op8XY2 _ _ => "8XY2"
  | .op8XY3 _ _ => "8XY3"
  | .op8XY4 _ _ => "8XY4"
  | .op8XY5 _ _ => "8XY5"
  | .op8XY6 _ _ => "8XY6"
  | .op8XY7 _ _ => "8XY7"
  | .op8XYE _ _ => "8XYE"
  | .op9XY0 _ _ => "9XY0"
  | .opANNN _ => "ANNN"
  | .opBNNN _ => "BNNN"
  | .opCXNN _ _ => "CXNN"
  | .opDXYN _ _ _ => "DXYN"
  | .opEX9E _ => "EX9E"
  | .opEXA1 _ => "EXA1"
  | .opFX07 _ => "FX07"
  | .opFX0A _ => "FX0A"
  | .opFX15 _ => "FX15"
  | .opFX18 _ => "FX18"
  | .opFX1E _ => "FX1E"
  | .opFX29 _ => "FX29"
  | .opFX33 _ => "FX33"
  | .opFX55 _ => "FX55"
  | .opFX65 _ => "FX65"

/-- The name of any word as the host sees it: the instruction's name, or "???" for an Unknown word (R131, 00_scope.md R13). -/
def nameOfWord (op : Word) : String :=
  match decode op with
  | .ok ins => ins.mnemonic
  | .error _ => "???"

/-! ## The host's view of a table word -/

/-- The opcode whose bits are the low `nbits` bits of `w`, every bit above them 0, cut to the 16 bits of an instruction. -/
def tableWord (nbits w : Nat) : Word :=
  BitVec.ofNat 16 (w % 2 ^ nbits)

/-- The instruction the decoder reads from the bytes of that opcode, laid out high byte first. -/
def decodeTableWord (nbits w : Nat) : Option Instr :=
  match decodeBytes [highByte (tableWord nbits w), lowByte (tableWord nbits w)] with
  | .ok (ins, _) => some ins
  | .error _ => none

end Sys2Proof
end

