-- ==== Sys2Proof/Config.lean ====
section
/-! DEFINITION. What the spec leaves open and the model therefore leaves WITHOUT a value: constants with no body, so that
no proof can see what they are (00_scope.md rule R7, 93_implementation_defined.md). The fixed parameters, and the defaults of
STACK_DEPTH and FONT, which are arguments of the machine, are in Sys2Proof/Machine/Parameters.lean. -/

namespace Sys2Proof.Config

/-- QUOTA, the instructions run per `tick` (00_scope.md R7, decision D12: OPEN). Log entry 9. -/
opaque quota : Nat

/-- RandomByte(): the byte of the n-th draw (00_scope.md R7, 42_alu.md R222, decision D20: any value). Log entry 5. -/
opaque randomByte : Nat → BitVec 8

/-- SelectKey(): the raw number of the n-th draw, reduced by the number of pressed keys where it is used
(00_scope.md R7, 45_input_timers.md R296, decision D7: any pressed key). Log entry 6. -/
opaque keyDraw : Nat → Nat

end Sys2Proof.Config
end

