-- ==== Sys2Proof/Machine/Parameters.lean ====
section
/-! DEFINITION. The fixed parameters (00_scope.md R6), and the defaults of the two open parameters that the spec gives a default
or a decided value, STACK_DEPTH and FONT (R7). Those two are arguments of the machine: `State` carries the values a machine was
constructed with, and the defaults here are only what `State.reset` was constructed with. -/

namespace Sys2Proof.Machine

/-- MEM_SIZE: addresses 0x000..0xFFF (R6). -/
def memSize : Nat := 4096

/-- The value the spec decides for STACK_DEPTH (R7, decision D11). Log entry 8. -/
def defaultStackDepth : Nat := 16

/-- PROGRAM_BASE, the default load address (R6, 20_memory.md R84). -/
def programBase : Nat := 0x200

/-- The glyphs 0 to 7 of FONT's default (10_state.md R46). -/
def fontLow : List Byte :=
  [0xF0, 0x90, 0x90, 0x90, 0xF0, 0x20, 0x60, 0x20, 0x20, 0x70,
   0xF0, 0x10, 0xF0, 0x80, 0xF0, 0xF0, 0x10, 0xF0, 0x10, 0xF0,
   0x90, 0x90, 0xF0, 0x10, 0x10, 0xF0, 0x80, 0xF0, 0x10, 0xF0,
   0xF0, 0x80, 0xF0, 0x90, 0xF0, 0xF0, 0x10, 0x20, 0x40, 0x40]

/-- The glyphs 8 to F of FONT's default (10_state.md R46). -/
def fontHigh : List Byte :=
  [0xF0, 0x90, 0xF0, 0x90, 0xF0, 0xF0, 0x90, 0xF0, 0x10, 0xF0,
   0xF0, 0x90, 0xF0, 0x90, 0x90, 0xE0, 0x90, 0xE0, 0x90, 0xE0,
   0xF0, 0x80, 0x80, 0x80, 0xF0, 0xE0, 0x90, 0x90, 0x90, 0xE0,
   0xF0, 0x80, 0xF0, 0x80, 0xF0, 0xF0, 0x80, 0xF0, 0x80, 0x80]

/-- The default of FONT, 16 glyphs of 5 bytes, which the spec marks as from general knowledge and not in source (R46, decision
D13): PRESUMED. Log entry 7. -/
def defaultFont : Vector Byte 80 :=
  ⟨⟨fontLow ++ fontHigh⟩, rfl⟩

end Sys2Proof.Machine
end

