-- ==== Sys2Proof/Machine/State.lean ====
section
/-! DEFINITION. The machine state as plain data (10_state.md R30), the reasons a step can stop, and the state after reset. -/

namespace Sys2Proof.Machine

/-- The spec's fatal errors, E of `raise E(info)` (60_exceptions.md R320, R321), and the kind in a fault record.
It is also the fault type of Host.Outcome, but no step ends in Outcome.fault: taking a fatal error is a NEXT state, with
Run = Faulted and the record in State.fault (R326). Log entry 2. -/
inductive Fault where
  /-- A byte address at or above 4096, raised by the fetch, DXYN, FX33, FX55, FX65, or a key number above 15, raised by EX9E
  and EXA1 (R321, 45_input_timers.md R290). The address part is the spec's plain rule; for the key number safe (D5). -/
  | outOfRangeAccess
  /-- 2NNN with STACK_DEPTH entries on the stack (R321). STACK_DEPTH is the machine's argument (R7). Where it is 16, safe if the hardware allows more, unsafe if fewer (D11). -/
  | stackOverflow
  /-- 00EE with an empty stack (R321). The spec's plain rule. -/
  | stackUnderflow
  deriving DecidableEq, Repr

/-- Why a step or a host operation is refused. -/
inductive Refusal where
  /-- An instruction with no meaning yet; raised by no arm of exec, since all 34 have their meaning. Safe. -/
  | notModelled (mnemonic : String)
  /-- The host calls `setKey` for a slot that does not exist (40_execution_engine.md R156: "refused"). Raised by the host
  operation only, never by an instruction. Safe. -/
  | noSuchKeySlot (k : Nat)
  deriving DecidableEq, Repr

/-- Run (10_state.md R47). -/
inductive RunState where
  | stopped
  | running
  | faulted
  deriving DecidableEq, Repr

/-- The fault record (10_state.md R48). `addr` is the out-of-range address or key number, a natural number. -/
structure FaultRecord where
  kind : Fault
  pc : Word
  opcode : Option Word
  addr : Option Nat
  deriving DecidableEq, Repr

/-- The retained program image: its bytes and its load address (10_state.md R49). -/
structure RomImage where
  bytes : List Byte
  base : Nat
  deriving DecidableEq, Repr

/-- An output event (40_execution_engine.md R160). -/
inductive Event where
  /-- Emitted by `tick` while ST > 0 (60_exceptions.md R341). -/
  | toneRequest
  /-- Emitted by 00E0 and DXYN (44_display.md R270, R272). -/
  | framebufferChanged
  deriving DecidableEq, Repr

/-- Memory: the bytes that differ from what an unlisted address reads as, by strictly rising address (Machine/Ops.lean). -/
abbrev Memory := List Host.Cell

/-- FB[x][y]: 64 columns of 32 pixels, on or off (10_state.md R44). -/
abbrev Framebuffer := Vector (Vector Bool 32) 64

/-- The framebuffer with every pixel off. -/
def blankFramebuffer : Framebuffer :=
  Vector.replicate 64 (Vector.replicate 32 false)

/-- The machine state (10_state.md R30); the two arguments FONT and STACK_DEPTH that the machine was constructed with (00_scope.md
R7), which no operation changes; and two fields of the model's own, `emitted` and `draws`. -/
structure State where
  /-- Mem (20_memory.md R70). -/
  mem : Memory
  /-- V0..VF (10_state.md R31). -/
  v : Vector Byte 16
  /-- OPC, the current opcode (R39). -/
  opc : Word
  /-- PC (R34). -/
  pc : Word
  /-- I (R36). -/
  i : Word
  /-- DT (R37). -/
  dt : Byte
  /-- ST (R38). -/
  st : Byte
  /-- The call stack, last entry on top (R40). -/
  stack : List Word
  /-- Keys, true when pressed (R42). -/
  keys : Vector Bool 16
  /-- FB (R44). -/
  fb : Framebuffer
  /-- Run (R47). -/
  run : RunState
  /-- Fault (R48). -/
  fault : Option FaultRecord
  /-- Rom (R49). -/
  rom : RomImage
  /-- FONT, the 80 bytes that reset copies to 0x000..0x04F (00_scope.md R7, R46). An argument, fixed at construction. Log entry
  7. -/
  font : Vector Byte 80
  /-- STACK_DEPTH (00_scope.md R7). An argument, fixed at construction. Log entry 8. -/
  stackDepth : Nat
  /-- The MODEL's own: the events sent to the host so far, oldest first. No rule reads it. Log entry 4. -/
  emitted : List Event
  /-- The MODEL's own: how many free values were drawn so far. Log entry 5. -/
  draws : Nat
  deriving DecidableEq, Repr

/-- The state after reset with the empty program image, which is also the construction state (10_state.md R55,
70_reset_and_hazards.md R362), of the machine constructed with the defaults of FONT and STACK_DEPTH; Machine/Ops.lean's
`State.constructed` is that of any machine. Memory lists nothing: every address reads as the default FONT or 0. `emitted` and `draws` are the
model's own and start empty and 0 (DESIGN CHOICE, log entries 4 and 5). -/
def State.reset : State where
  mem := []
  v := Vector.replicate 16 0
  opc := 0x0000
  pc := 0x0200
  i := 0x0000
  dt := 0x00
  st := 0x00
  stack := []
  keys := Vector.replicate 16 false
  fb := blankFramebuffer
  run := .stopped
  fault := none
  rom := ⟨[], 0x200⟩
  font := defaultFont
  stackDepth := defaultStackDepth
  emitted := []
  draws := 0

end Sys2Proof.Machine
end

