-- ==== Sys2Proof/Machine/Ops.lean ====
section
/-! DEFINITION. The named operations over memory, registers, the call stack, the draws and the events, the fetch, taking a
fault, and the reset operation, which is the only way out of a fault (00_scope.md R11, 20_memory.md R72, 10_state.md R40,
40_execution_engine.md R141, 60_exceptions.md R325, R326, 70_reset_and_hazards.md R360). -/

namespace Sys2Proof.Machine

/-! ## Memory as a whole (20_memory.md R70, R78, R83) -/

/-- What an address that memory does not list reads as: the contents `reset` gives it with the empty image and the default FONT,
at 0x000..0x04F, and 0 elsewhere (20_memory.md R78, R83). It is the baseline of the representation only: on a machine with
another FONT, reset lists the bytes that differ. Log entry 10. -/
def unlistedByte (a : Nat) : Byte :=
  (fontLow ++ fontHigh).getD a 0

/-- The canonical form: addresses strictly rising, all of them in the address space, and no entry equal to what its address
reads as when unlisted. -/
abbrev Memory.wf (m : Memory) : Prop :=
  m.Pairwise (fun c d => c.1 < d.1) ∧ ∀ c ∈ m, c.1 < memSize ∧ c.2 ≠ unlistedByte c.1

/-- The byte at an address, with no bounds check: the accesses of a program go through `memRead`. -/
def Memory.get : Memory → Nat → Byte
  | [], a => unlistedByte a
  | c :: m, a => if c.1 = a then c.2 else Memory.get m a

/-- Put a cell before the first cell of a higher address. -/
def Memory.insertCell (a : Nat) (b : Byte) : Memory → Memory
  | [] => [(a, b)]
  | c :: m => if a < c.1 then (a, b) :: c :: m else c :: Memory.insertCell a b m

/-- Mem[a] <- b, in canonical form. An address outside the space changes nothing; a program's write of one is refused
before, by `memWrite`. -/
def Memory.set (m : Memory) (a : Nat) (b : Byte) : Memory :=
  if a < memSize then
    if b = unlistedByte a then m.filter (fun c => c.1 ≠ a)
    else Memory.insertCell a b (m.filter (fun c => c.1 ≠ a))
  else m

/-- Copy bytes to increasing addresses from `a` (20_memory.md R83, R84). -/
def Memory.load (m : Memory) (a : Nat) : List Byte → Memory
  | [] => m
  | b :: bs => Memory.load (m.set a b) (a + 1) bs

/-! ## Raising a fault (60_exceptions.md R322) -/

/-- `raise E(info)`: the kind, and the address or key number that an OutOfRangeAccess names. -/
structure Raise where
  kind : Fault
  addr : Option Nat
  deriving DecidableEq, Repr

/-- OutOfRangeAccess(addr). -/
def outOfRange (a : Nat) : Raise := ⟨.outOfRangeAccess, some a⟩

/-- The spec's own number of a fatal error (60_exceptions.md R321, decision D10). -/
def Fault.code : Fault → Nat
  | .outOfRangeAccess => 1
  | .stackOverflow => 2
  | .stackUnderflow => 3

/-! ## The access primitives (00_scope.md R11, 20_memory.md R72) -/

/-- MemRead(addr, 1). Addresses are natural numbers and do not wrap. -/
def memRead (s : State) (a : Nat) : Except Raise Byte :=
  if memSize ≤ a then .error (outOfRange a) else .ok (s.mem.get a)

/-- MemWrite(addr, 1, v). -/
def memWrite (s : State) (a : Nat) (b : Byte) : Except Raise State :=
  if memSize ≤ a then .error (outOfRange a) else .ok { s with mem := s.mem.set a b }

/-- Read `n` bytes at increasing addresses from `a`, each with its own check (20_memory.md R75). -/
def readBytes (s : State) (a : Nat) : Nat → Except Raise (List Byte)
  | 0 => .ok []
  | n + 1 =>
    match memRead s a with
    | .error e => .error e
    | .ok b =>
      match readBytes s (a + 1) n with
      | .error e => .error e
      | .ok bs => .ok (b :: bs)

/-- Write bytes at increasing addresses from `a`, each with its own check (20_memory.md R75). -/
def writeBytes (s : State) (a : Nat) : List Byte → Except Raise State
  | [] => .ok s
  | b :: bs =>
    match memWrite s a b with
    | .error e => .error e
    | .ok s' => writeBytes s' (a + 1) bs

/-! ## Registers (10_state.md R31) -/

/-- V[r]. -/
def State.reg (s : State) (r : Reg) : Byte := s.v[r]

/-- V[r] <- b. -/
def State.setReg (s : State) (r : Reg) (b : Byte) : State :=
  { s with v := s.v.set r b }

/-- V[k], V[k+1], ... <- the bytes, in this order; a number above 15 names no register and is passed over. -/
def State.setRegsFrom (s : State) (k : Nat) : List Byte → State
  | [] => s
  | b :: bs => State.setRegsFrom (if h : k < 16 then s.setReg ⟨k, h⟩ b else s) (k + 1) bs

/-! ## PC (40_execution_engine.md R142, 41_control_flow.md R184) -/

/-- What a successful fetch writes: OPC <- op; PC <- PC + 2 (40_execution_engine.md R141). -/
def State.advance (s : State) (op : Word) : State :=
  { s with opc := op, pc := s.pc + 2 }

/-- PC <- target. -/
def State.jump (s : State) (target : Word) : State :=
  { s with pc := target }

/-- A skip adds exactly 2 to PC (41_control_flow.md R184). -/
def State.skipIf (s : State) (c : Bool) : State :=
  if c then { s with pc := s.pc + 2 } else s

/-- PC <- PC - 2: back to the instruction that executes (45_input_timers.md R296). -/
def State.rewind (s : State) : State :=
  { s with pc := s.pc - 2 }

/-! ## The call stack (10_state.md R40) -/

/-- Push(v). -/
def push (s : State) (w : Word) : Except Raise State :=
  if s.stack.length = s.stackDepth then .error ⟨.stackOverflow, none⟩
  else .ok { s with stack := s.stack ++ [w] }

/-- Pop(): the top entry, and the state without it. -/
def pop (s : State) : Except Raise (Word × State) :=
  match s.stack.getLast? with
  | none => .error ⟨.stackUnderflow, none⟩
  | some w => .ok (w, { s with stack := s.stack.dropLast })

/-! ## Events and draws (00_scope.md R7, R11) -/

/-- `emit Ev`. -/
def State.emit (s : State) (e : Event) : State :=
  { s with emitted := s.emitted ++ [e] }

/-- One draw has been taken. -/
def State.drawn (s : State) : State :=
  { s with draws := s.draws + 1 }

/-- RandomByte(): a free value, any byte. Log entry 5. -/
def State.randomByte (s : State) : Byte :=
  Config.randomByte s.draws

/-- Pressed(k) (10_state.md R43). -/
def State.pressed (s : State) (k : Key) : Bool := s.keys[k]

/-- The pressed keys, lowest number first. -/
def State.pressedKeys (s : State) : List Key :=
  (List.finRange 16).filter s.pressed

/-- SelectKey() among the pressed keys `k :: ks`: the one there is, or a free choice among several. Log entry 6. -/
def State.selectKey (s : State) (k : Key) : List Key → Key
  | [] => k
  | k' :: ks => (k :: k' :: ks).getD (Config.keyDraw s.draws % (ks.length + 2)) k

/-! ## Fetching and taking a fault -/

/-- The fetch: two byte reads at PC and PC + 1, high byte first (40_execution_engine.md R141, 20_memory.md R73). -/
def fetch (s : State) : Except Raise Word :=
  match memRead s s.pc.toNat with
  | .error e => .error e
  | .ok hi =>
    match memRead s (s.pc.toNat + 1) with
    | .error e => .error e
    | .ok lo => .ok (wordOfBytes hi lo)

/-- Taking a fault (60_exceptions.md R325, R326). `s` is the state SAVED BEFORE THE FETCH, so every write of the instruction
is discarded by starting from it; `op` is the fetched opcode, or none when the fetch itself faulted. -/
def State.takeFault (s : State) (op : Option Word) (e : Raise) : State :=
  { s with run := .faulted, fault := some ⟨e.kind, s.pc, op, e.addr⟩ }

/-- The construction state of the machine with this FONT and this STACK_DEPTH (70_reset_and_hazards.md R362, 00_scope.md R7):
memory is FONT and zeros, everything else is as in `State.reset`, which is this state for the defaults. -/
def State.constructed (font : Vector Byte 80) (stackDepth : Nat) : State :=
  { State.reset with
    mem := Memory.load [] 0 font.toList
    font := font
    stackDepth := stackDepth }

/-- `reset()` (70_reset_and_hazards.md R360, 20_memory.md R83): zeros, then FONT, then Rom over them. It is the only way out of Faulted: there is no return from a
fault (60_exceptions.md R327, R328). Rom, FONT and STACK_DEPTH are kept, and so are the model's own `emitted` (reset emits no event and unsends
none) and `draws` (the draws after a reset are new ones). Log entries 4 and 5. -/
def resetOp (s : State) : State :=
  { State.constructed s.font s.stackDepth with
    mem := Memory.load (State.constructed s.font s.stackDepth).mem s.rom.base s.rom.bytes
    rom := s.rom
    emitted := s.emitted
    draws := s.draws }

/-- One instruction, from the state before its fetch: the fetch's writes, then the effect, which reads the state the fetch
left; a raise in the effect takes the fault from the state before the fetch (40_execution_engine.md R141, R143). -/
def perform (ins : Instr) (effect : State → Except Raise State) (s : State) :
    Host.Outcome State Fault Refusal :=
  match effect (s.advance (encode ins)) with
  | .ok t => .next t
  | .error e => .next (s.takeFault (some (encode ins)) e)

/-- An Unknown word: the fetch has written OPC and advanced PC, and nothing else changes (40_execution_engine.md R144). -/
def execUnknown (op : Word) (s : State) : Host.Outcome State Fault Refusal :=
  .next (s.advance op)

end Sys2Proof.Machine
end

