-- ==== Sys2Proof/Machine/Operands.lean ====
section
/-! DEFINITION. The operand forms (30_encoding.md R103, 43_index_memory.md R252, 45_input_timers.md R290) and the exact
arithmetic on natural numbers with its reductions (00_scope.md R10). -/

namespace Sys2Proof.Machine

/-- A natural number mod 256. -/
def mod256 (n : Nat) : Byte := BitVec.ofNat 8 (n % 256)

/-- A natural number mod 0x1000, in a 16-bit register. -/
def mod4096 (n : Nat) : Word := BitVec.ofNat 16 (n % 0x1000)

/-- NNN as a 16-bit address, zero-extended (30_encoding.md R103). -/
def absolute (nnn : Addr12) : Word := nnn.setWidth 16

/-- zext_16(V0) + NNN, a 16-bit result that no rule masks to 12 bits (41_control_flow.md R186). -/
def State.offsetTarget (s : State) (nnn : Addr12) : Word :=
  (s.reg V0).setWidth 16 + absolute nnn

/-- zext_16(V[x]) * 5: the address of a glyph of the font (43_index_memory.md R244). -/
def glyphAddress (b : Byte) : Word := b.setWidth 16 * 5

/-- The address of a data access: I, as a natural number. The bytes of an instruction are at I + k (43_index_memory.md R252). -/
def State.dataAddress (s : State) : Nat := s.i.toNat

/-- KeyOf(v): a key number above 15 names no slot (45_input_timers.md R290, decision D5). -/
def keyOf (b : Byte) : Except Raise Key :=
  if h : b.toNat < 16 then .ok ⟨b.toNat, h⟩ else .error (outOfRange b.toNat)

/-- The values of V0..VX, X + 1 registers (30_encoding.md R103). -/
def State.regBlock (s : State) (x : Reg) : List Byte :=
  ((List.finRange 16).filter (fun r => r ≤ x)).map s.reg

/-- The three decimal digits of a byte, hundreds first (43_index_memory.md R246). -/
def decimalDigits (b : Byte) : List Byte :=
  [mod256 (b.toNat / 100), mod256 (b.toNat / 10 % 10), mod256 (b.toNat % 10)]

end Sys2Proof.Machine
end

