-- ==== Sys2Proof/Machine/Flags.lean ====
section
/-! DEFINITION. The flag computations, all of them values of VF (10_state.md R33), and the shape of the instructions that
write the flag first and the result after it (00_scope.md R12, decision D3). -/

namespace Sys2Proof.Machine

/-- A flag as the byte written to VF. -/
def flagByte (c : Bool) : Byte := if c then 1 else 0

/-- 8XY4: carry out of the 8-bit sum (42_alu.md R212). -/
def carryFlag (a b : Byte) : Byte := flagByte (255 < a.toNat + b.toNat)

/-- 8XY5 and, with its operands exchanged, 8XY7: no borrow (42_alu.md R214, R218). -/
def noBorrowFlag (a b : Byte) : Byte := flagByte (b.toNat ≤ a.toNat)

/-- 8XY6: the bit shifted out (42_alu.md R216). -/
def lowBitFlag (a : Byte) : Byte := a &&& 1

/-- 8XYE: the bit shifted out (42_alu.md R220). -/
def highBitFlag (a : Byte) : Byte := flagByte (a &&& 0x80 ≠ 0)

/-- FX1E: I + VX passes 0xFFF (43_index_memory.md R242; 0 otherwise is decision D4). -/
def indexOverflowFlag (i : Word) (b : Byte) : Byte := flagByte (0xFFF < i.toNat + b.toNat)

/-- DXYN: some pixel went from on to off (44_display.md R272). -/
def collisionFlag (hit : Bool) : Byte := flagByte hit

/-- The sum mod 256 (42_alu.md R212). -/
def sumByte (a b : Byte) : Byte := mod256 (a.toNat + b.toNat)

/-- a - b mod 256, as the spec writes it: (a + 256 - b) mod 256 (42_alu.md R214, R218). -/
def differenceByte (a b : Byte) : Byte := mod256 (a.toNat + 256 - b.toNat)

/-- VF <- flag(V[x], V[y]); V[x] <- result(V[x], V[y]): the second statement reads the registers as the first left them, so
with X = F the result overwrites the flag, and with Y = F the result reads the flag (00_scope.md R12). Log entry 12. -/
def State.flagThenResult (s : State) (x y : Reg) (flag result : Byte → Byte → Byte) : State :=
  let s' := s.setReg VF (flag (s.reg x) (s.reg y))
  s'.setReg x (result (s'.reg x) (s'.reg y))

end Sys2Proof.Machine
end

