-- ==== Sys2Proof/Machine/Alu.lean ====
section
/-! DEFINITION. The register and arithmetic/logic instructions (42_alu.md). None raises a fault. -/

namespace Sys2Proof.Machine

/-- 6XNN: V[x] <- NN (R200). -/
def exec6XNN (x : Reg) (nn : Byte) (s : State) : Host.Outcome State Fault Refusal :=
  perform (.op6XNN x nn) (fun s => .ok (s.setReg x nn)) s

/-- 7XNN: V[x] <- (V[x] + NN) mod 256, no flag (R202). -/
def exec7XNN (x : Reg) (nn : Byte) (s : State) : Host.Outcome State Fault Refusal :=
  perform (.op7XNN x nn) (fun s => .ok (s.setReg x (sumByte (s.reg x) nn))) s

/-- 8XY0: V[x] <- V[y] (R204). -/
def exec8XY0 (x y : Reg) (s : State) : Host.Outcome State Fault Refusal :=
  perform (.op8XY0 x y) (fun s => .ok (s.setReg x (s.reg y))) s

/-- 8XY1: V[x] <- V[x] OR V[y] (R206). -/
def exec8XY1 (x y : Reg) (s : State) : Host.Outcome State Fault Refusal :=
  perform (.op8XY1 x y) (fun s => .ok (s.setReg x (s.reg x ||| s.reg y))) s

/-- 8XY2: V[x] <- V[x] AND V[y] (R208). -/
def exec8XY2 (x y : Reg) (s : State) : Host.Outcome State Fault Refusal :=
  perform (.op8XY2 x y) (fun s => .ok (s.setReg x (s.reg x &&& s.reg y))) s

/-- 8XY3: V[x] <- V[x] XOR V[y] (R210). -/
def exec8XY3 (x y : Reg) (s : State) : Host.Outcome State Fault Refusal :=
  perform (.op8XY3 x y) (fun s => .ok (s.setReg x (s.reg x ^^^ s.reg y))) s

/-- 8XY4: VF <- carry; V[x] <- (V[x] + V[y]) mod 256 (R212). -/
def exec8XY4 (x y : Reg) (s : State) : Host.Outcome State Fault Refusal :=
  perform (.op8XY4 x y) (fun s => .ok (s.flagThenResult x y carryFlag sumByte)) s

/-- 8XY5: VF <- no borrow; V[x] <- (V[x] + 256 - V[y]) mod 256 (R214). -/
def exec8XY5 (x y : Reg) (s : State) : Host.Outcome State Fault Refusal :=
  perform (.op8XY5 x y) (fun s => .ok (s.flagThenResult x y noBorrowFlag differenceByte)) s

/-- 8XY6: VF <- V[x] AND 1; V[x] <- V[x] >> 1. V[y] is not read (R216). -/
def exec8XY6 (x y : Reg) (s : State) : Host.Outcome State Fault Refusal :=
  perform (.op8XY6 x y)
    (fun s => .ok (s.flagThenResult x x (fun a _ => lowBitFlag a) (fun a _ => a >>> (1 : Nat)))) s

/-- 8XY7: VF <- no borrow of VY - VX; V[x] <- (V[y] + 256 - V[x]) mod 256 (R218). -/
def exec8XY7 (x y : Reg) (s : State) : Host.Outcome State Fault Refusal :=
  perform (.op8XY7 x y)
    (fun s => .ok (s.flagThenResult x y (fun a b => noBorrowFlag b a) (fun a b => differenceByte b a))) s

/-- 8XYE: VF <- bit 7 of V[x]; V[x] <- (V[x] * 2) mod 256. V[y] is not read (R220). -/
def exec8XYE (x y : Reg) (s : State) : Host.Outcome State Fault Refusal :=
  perform (.op8XYE x y)
    (fun s => .ok (s.flagThenResult x x (fun a _ => highBitFlag a) (fun a _ => mod256 (a.toNat * 2)))) s

/-- CXNN: V[x] <- RandomByte() AND NN, the byte a free value (R222). -/
def execCXNN (x : Reg) (nn : Byte) (s : State) : Host.Outcome State Fault Refusal :=
  perform (.opCXNN x nn) (fun s => .ok (s.drawn.setReg x (s.randomByte &&& nn))) s

end Sys2Proof.Machine
end

