-- ==== Sys2Proof/Machine/ControlFlow.lean ====
section
/-! DEFINITION. The returns, jumps, calls and skips (41_control_flow.md). PC holds the fetch address plus 2 when an effect
below runs (40_execution_engine.md R142). -/

namespace Sys2Proof.Machine

/-- 00EE: PC <- Pop(); StackUnderflow on an empty stack (R170). -/
def exec00EE (s : State) : Host.Outcome State Fault Refusal :=
  perform .op00EE
    (fun s =>
      match pop s with
      | .error e => .error e
      | .ok (w, t) => .ok (t.jump w)) s

/-- 1NNN: PC <- NNN (R172). -/
def exec1NNN (nnn : Addr12) (s : State) : Host.Outcome State Fault Refusal :=
  perform (.op1NNN nnn) (fun s => .ok (s.jump (absolute nnn))) s

/-- 2NNN: Push(PC); PC <- NNN; StackOverflow on a full stack (R174). -/
def exec2NNN (nnn : Addr12) (s : State) : Host.Outcome State Fault Refusal :=
  perform (.op2NNN nnn)
    (fun s =>
      match push s s.pc with
      | .error e => .error e
      | .ok t => .ok (t.jump (absolute nnn))) s

/-- 3XNN: skip if V[x] = NN (R176). -/
def exec3XNN (x : Reg) (nn : Byte) (s : State) : Host.Outcome State Fault Refusal :=
  perform (.op3XNN x nn) (fun s => .ok (s.skipIf (s.reg x == nn))) s

/-- 4XNN: skip if V[x] ≠ NN (R178). -/
def exec4XNN (x : Reg) (nn : Byte) (s : State) : Host.Outcome State Fault Refusal :=
  perform (.op4XNN x nn) (fun s => .ok (s.skipIf (s.reg x != nn))) s

/-- 5XY0: skip if V[x] = V[y] (R180). -/
def exec5XY0 (x y : Reg) (s : State) : Host.Outcome State Fault Refusal :=
  perform (.op5XY0 x y) (fun s => .ok (s.skipIf (s.reg x == s.reg y))) s

/-- 9XY0: skip if V[x] ≠ V[y] (R182). -/
def exec9XY0 (x y : Reg) (s : State) : Host.Outcome State Fault Refusal :=
  perform (.op9XY0 x y) (fun s => .ok (s.skipIf (s.reg x != s.reg y))) s

/-- BNNN: PC <- zext_16(V0) + NNN, never masked (R186). -/
def execBNNN (nnn : Addr12) (s : State) : Host.Outcome State Fault Refusal :=
  perform (.opBNNN nnn) (fun s => .ok (s.jump (s.offsetTarget nnn))) s

end Sys2Proof.Machine
end

