-- ==== Sys2Proof/Machine/Display.lean ====
section
/-! DEFINITION. The display instructions (44_display.md) and the framebuffer operations they are made of. -/

namespace Sys2Proof.Machine

/-- A column number mod 64 (R272). -/
def wrapX (n : Nat) : Fin 64 := Fin.ofNat 64 n

/-- A row number mod 32 (R272). -/
def wrapY (n : Nat) : Fin 32 := Fin.ofNat 32 n

/-- FB[x][y] (10_state.md R44). -/
def Framebuffer.pixel (fb : Framebuffer) (x : Fin 64) (y : Fin 32) : Bool := fb[x][y]

/-- FB[x][y] <- FB[x][y] XOR 1. -/
def Framebuffer.toggle (fb : Framebuffer) (x : Fin 64) (y : Fin 32) : Framebuffer :=
  fb.set x (fb[x].set y (!fb[x][y]))

/-- A draw in progress: the framebuffer, and whether some pixel has gone from on to off. -/
abbrev Drawing := Framebuffer × Bool

/-- One set sprite bit at a pixel: a collision if the pixel is on, then the XOR (R272). -/
def Drawing.flip (d : Drawing) (x : Fin 64) (y : Fin 32) : Drawing :=
  (Framebuffer.toggle d.1 x y, d.2 || Framebuffer.pixel d.1 x y)

/-- Column `c` of a sprite row is bit 7 - c (R272, decision D14: PRESUMED). Log entry 17. -/
def spriteBit (b : Byte) (c : Nat) : Bool := b.getLsbD (7 - c)

/-- One sprite row, columns 0..7, at column x0 and row y0, each pixel wrapped (R272). -/
def Drawing.row (d : Drawing) (x0 y0 : Nat) (b : Byte) : Drawing :=
  (List.range 8).foldl
    (fun d c => if spriteBit b c then Drawing.flip d (wrapX (x0 + c)) (wrapY y0) else d) d

/-- The sprite's rows from row y0 down (R272). -/
def Drawing.rows (x0 y0 : Nat) : List Byte → Drawing → Drawing
  | [], d => d
  | b :: bs, d => Drawing.rows x0 (y0 + 1) bs (Drawing.row d x0 y0 b)

/-- 00E0: every pixel off; FramebufferChanged (R270, the event decision D19). -/
def exec00E0 (s : State) : Host.Outcome State Fault Refusal :=
  perform .op00E0 (fun s => .ok ({ s with fb := blankFramebuffer }.emit .framebufferChanged)) s

/-- DXYN: N sprite rows from I at (V[x], V[y]), read before VF is written; VF <- collision; FramebufferChanged (R272). -/
def execDXYN (x y : Reg) (n : Nibble) (s : State) : Host.Outcome State Fault Refusal :=
  perform (.opDXYN x y n)
    (fun s =>
      match readBytes s s.dataAddress n.toNat with
      | .error e => .error e
      | .ok bs =>
        let d := Drawing.rows (s.reg x).toNat (s.reg y).toNat bs (s.fb, false)
        .ok (({ s with fb := d.1 }.setReg VF (collisionFlag d.2)).emit .framebufferChanged)) s

end Sys2Proof.Machine
end

