-- ==== Sys2Proof/Machine/IndexMemory.lean ====
section
/-! DEFINITION. The index register and memory instructions (43_index_memory.md). FX33, FX55 and FX65 leave I unchanged. -/

namespace Sys2Proof.Machine

/-- ANNN: I <- zext_16(NNN) (R240). -/
def execANNN (nnn : Addr12) (s : State) : Host.Outcome State Fault Refusal :=
  perform (.opANNN nnn) (fun s => .ok { s with i := absolute nnn }) s

/-- FX1E's two statements: VF <- overflow; I <- (I + V[x]) mod 0x1000, reading V[x] as the first left it (R242). -/
def State.addToIndex (s : State) (x : Reg) : State :=
  let s' := s.setReg VF (indexOverflowFlag s.i (s.reg x))
  { s' with i := mod4096 (s'.i.toNat + (s'.reg x).toNat) }

/-- FX1E: add register to index (R242). -/
def execFX1E (x : Reg) (s : State) : Host.Outcome State Fault Refusal :=
  perform (.opFX1E x) (fun s => .ok (s.addToIndex x)) s

/-- FX29: I <- zext_16(V[x]) * 5, V[x] not masked (R244). -/
def execFX29 (x : Reg) (s : State) : Host.Outcome State Fault Refusal :=
  perform (.opFX29 x) (fun s => .ok { s with i := glyphAddress (s.reg x) }) s

/-- FX33: the three decimal digits of V[x] to I, I + 1, I + 2 (R246). -/
def execFX33 (x : Reg) (s : State) : Host.Outcome State Fault Refusal :=
  perform (.opFX33 x) (fun s => writeBytes s s.dataAddress (decimalDigits (s.reg x))) s

/-- FX55: V0..VX to I..I + X (R248). -/
def execFX55 (x : Reg) (s : State) : Host.Outcome State Fault Refusal :=
  perform (.opFX55 x) (fun s => writeBytes s s.dataAddress (s.regBlock x)) s

/-- FX65: V0..VX from I..I + X (R250). -/
def execFX65 (x : Reg) (s : State) : Host.Outcome State Fault Refusal :=
  perform (.opFX65 x)
    (fun s =>
      match readBytes s s.dataAddress (x.val + 1) with
      | .error e => .error e
      | .ok bs => .ok (s.setRegsFrom 0 bs)) s

end Sys2Proof.Machine
end

