-- ==== Sys2Proof/Machine/InputTimers.lean ====
section
/-! DEFINITION. The keypad and timer instructions (45_input_timers.md). -/

namespace Sys2Proof.Machine

/-- EX9E: skip if key V[x] is pressed; a key number above 15 faults (R290, R292). -/
def execEX9E (x : Reg) (s : State) : Host.Outcome State Fault Refusal :=
  perform (.opEX9E x)
    (fun s =>
      match keyOf (s.reg x) with
      | .error e => .error e
      | .ok k => .ok (s.skipIf (s.pressed k))) s

/-- EXA1: skip if key V[x] is not pressed; a key number above 15 faults (R290, R294). -/
def execEXA1 (x : Reg) (s : State) : Host.Outcome State Fault Refusal :=
  perform (.opEXA1 x)
    (fun s =>
      match keyOf (s.reg x) with
      | .error e => .error e
      | .ok k => .ok (s.skipIf (!s.pressed k))) s

/-- FX0A: V[x] <- some pressed key, a free choice; with none pressed, back to this instruction (R296). -/
def execFX0A (x : Reg) (s : State) : Host.Outcome State Fault Refusal :=
  perform (.opFX0A x)
    (fun s =>
      match s.pressedKeys with
      | [] => .ok s.rewind
      | k :: ks => .ok (s.drawn.setReg x (mod256 (s.selectKey k ks).val))) s

/-- FX07: V[x] <- DT (R300). -/
def execFX07 (x : Reg) (s : State) : Host.Outcome State Fault Refusal :=
  perform (.opFX07 x) (fun s => .ok (s.setReg x s.dt)) s

/-- FX15: DT <- V[x] (R302). -/
def execFX15 (x : Reg) (s : State) : Host.Outcome State Fault Refusal :=
  perform (.opFX15 x) (fun s => .ok { s with dt := s.reg x }) s

/-- FX18: ST <- V[x] (R304). -/
def execFX18 (x : Reg) (s : State) : Host.Outcome State Fault Refusal :=
  perform (.opFX18 x) (fun s => .ok { s with st := s.reg x }) s

end Sys2Proof.Machine
end

