-- ==== Sys2Proof/Machine/Step.lean ====
section
/-! DEFINITION. Executing one instruction, and the step of the machine, which is the host operation `step()`
(40_execution_engine.md R141, R147). -/

namespace Sys2Proof.Machine

/-- `Exec1`: fetch, decode, execute. A fetch fault is taken with no opcode; an Unknown word is a no-op advance; an
instruction's meaning applies the fetch's writes and its own effect (40_execution_engine.md R141, R143, R144). -/
def exec1 (s : State) : Host.Outcome State Fault Refusal :=
  match fetch s with
  | .error e => .next (s.takeFault none e)
  | .ok op =>
    match decode op with
    | .error _ => execUnknown op s
    | .ok ins => exec ins s

/-- `step()`: Exec1 exactly once, when Run is Stopped or Running; nothing when Run is Faulted (40_execution_engine.md R147). -/
def step (s : State) : Host.Outcome State Fault Refusal :=
  match s.run with
  | .faulted => .next s
  | .stopped => exec1 s
  | .running => exec1 s

/-- `s` with an opcode stored at PC and PC + 1, high byte first, where the next step fetches it. It stands for the host's
loading of a program at PC: only memory changes. It needs PC <= 0xFFE and Run not Faulted, as at `State.reset`. Log entry 1. -/
def State.withFetchWord (s : State) (nbits w : Nat) : State :=
  { s with mem := Memory.load s.mem s.pc.toNat [highByte (tableWord nbits w), lowByte (tableWord nbits w)] }

end Sys2Proof.Machine
end

