-- ==== Sys2Proof/Machine/HostOps.lean ====
section
/-! DEFINITION. The host interface: every operation of 40_execution_engine.md R160, as a function of the state. `step()` is
Machine/Step.lean's `step`. A snapshot read is the state itself and changes nothing (20_memory.md R87). -/

namespace Sys2Proof.Machine

/-! ## The timers (60_exceptions.md R340, R341) -/

/-- if DT > 0: DT <- DT - 1 (R340). -/
def State.countDelay (s : State) : State :=
  if s.dt = 0 then s else { s with dt := s.dt - 1 }

/-- if ST > 0: ST <- ST - 1; emit ToneRequest (R341). -/
def State.countSound (s : State) : State :=
  if s.st = 0 then s else { s with st := s.st - 1 }.emit .toneRequest

/-- The timer rule of one tick: the delay timer, then the sound timer. -/
def State.countTimers (s : State) : State :=
  s.countDelay.countSound

/-! ## tick (40_execution_engine.md R146, R148) -/

/-- repeat n times: Exec1, until Run = Faulted (R146, decision D26). -/
def quotaLoop : Nat → State → Host.Outcome State Fault Refusal
  | 0, s => .next s
  | n + 1, s =>
    match s.run with
    | .faulted => .next s
    | .stopped | .running =>
      match exec1 s with
      | .next t => quotaLoop n t
      | .fault r => .fault r
      | .refused r => .refused r

/-- `tick()` of a machine whose quota is `q` (R146): nothing when Faulted; the timer rule; then, only if Running, the quota. -/
def tickWith (q : Nat) (s : State) : Host.Outcome State Fault Refusal :=
  match s.run with
  | .faulted => .next s
  | .stopped => .next s.countTimers
  | .running => quotaLoop q s.countTimers

/-- `tick()` with the machine's own QUOTA, which has no value (00_scope.md R7, decision D12). Log entry 9. -/
def tick (s : State) : Host.Outcome State Fault Refusal :=
  tickWith Config.quota s

/-! ## run, stop, setKey, loadProgram -/

/-- `run()` (40_execution_engine.md R145). -/
def runOp (s : State) : State :=
  match s.run with
  | .faulted => s
  | .stopped | .running => { s with run := .running }

/-- `stop()` (40_execution_engine.md R145, R149). -/
def stopOp (s : State) : State :=
  match s.run with
  | .faulted => s
  | .stopped | .running => { s with run := .stopped }

/-- `setKey(k, b)`: slot k becomes b and nothing else changes; k > 15 is refused (40_execution_engine.md R156). -/
def setKey (k : Nat) (b : Bool) (s : State) : Host.Outcome State Fault Refusal :=
  if h : k < 16 then .next { s with keys := s.keys.set k b } else .refused (.noSuchKeySlot k)

/-- What `loadProgram` answers the host (20_memory.md R84). -/
inductive LoadResult where
  | ok
  | romTooLarge
  deriving DecidableEq, Repr

/-- The spec's own number of RomTooLarge (60_exceptions.md R321, decision D10). -/
def LoadResult.code : LoadResult → Option Nat
  | .ok => none
  | .romTooLarge => some 4

/-- `loadProgram(bytes, at)`: the state and the answer (20_memory.md R84). -/
def loadProgram (bytes : List Byte) (base : Nat) (s : State) : State × LoadResult :=
  if memSize < base + bytes.length then (s, .romTooLarge)
  else ({ s with mem := Memory.load s.mem base bytes, rom := ⟨bytes, base⟩ }, .ok)

/-! ## The host's calls as data -/

/-- The operations of 40_execution_engine.md R160 that change the machine. -/
inductive HostCall where
  | reset
  | run
  | stop
  | step
  | tick
  | setKey (k : Nat) (b : Bool)
  | loadProgram (bytes : List Byte) (base : Nat := programBase)
  deriving DecidableEq, Repr

/-- What an operation does to the state of a machine whose quota is `q`. -/
def HostCall.apply (q : Nat) (c : HostCall) (s : State) : Host.Outcome State Fault Refusal :=
  match c with
  | .reset => .next (resetOp s)
  | .run => .next (runOp s)
  | .stop => .next (stopOp s)
  | .step => Sys2Proof.Machine.step s
  | .tick => tickWith q s
  | .setKey k b => Sys2Proof.Machine.setKey k b s
  | .loadProgram bytes base => .next (Sys2Proof.Machine.loadProgram bytes base s).1

/-- What `step` and `tick` answer the host: Ok, or the fault record (R160, 60_exceptions.md R326). `t` is the state after. -/
def State.report (t : State) : Option FaultRecord :=
  match t.run with
  | .faulted => t.fault
  | .stopped | .running => none

/-- A finite sequence of host operations (40_execution_engine.md R162). DESIGN CHOICE: the sequence ends where a call is refused,
with the refusal and no state; the spec says only that the call is refused (R156), not what becomes of the calls after it. Log
entry 30. -/
def applyCalls (q : Nat) : List HostCall → State → Host.Outcome State Fault Refusal
  | [], s => .next s
  | c :: cs, s =>
    match c.apply q s with
    | .next t => applyCalls q cs t
    | .fault r => .fault r
    | .refused r => .refused r

/-- Parked at address `a`: not Faulted, PC = a, and the word at a is a jump to a (R162). -/
abbrev State.parkedAt (s : State) (a : Addr12) : Prop :=
  s.run ≠ .faulted ∧ s.pc = a.setWidth 16 ∧ fetch s = .ok (encode (.op1NNN a))

end Sys2Proof.Machine
end

