-- ==== Sys2Proof/Safety.lean ====
section
/-! DEFINITION. What claims about the machine are stated in: the invariant of reachable states, a safe run, the parts of the
state and a frame over them, and the encoding of an instruction under a mask. -/

namespace Sys2Proof.Machine

/-- A run is safe while no fatal error has been taken (40_execution_engine.md R162: a run that ends Faulted is a failed run). -/
abbrev State.safe (s : State) : Prop := s.run ≠ .faulted

/-- The shape of a fault record against the state that holds it (10_state.md R48, 60_exceptions.md R321, R326): an address is
recorded exactly for OutOfRangeAccess, an opcode is missing only for a fetch fault, which is an OutOfRangeAccess, and `pc` is
where PC still stands. -/
abbrev FaultRecord.fitsState (r : FaultRecord) (s : State) : Prop :=
  (r.kind = .outOfRangeAccess ↔ r.addr.isSome) ∧ (r.opcode = none → r.kind = .outOfRangeAccess) ∧ r.pc = s.pc

/-- The invariant of reachable states. -/
structure MachineInv (s : State) : Prop where
  /-- Memory is in canonical form. -/
  memory : s.mem.wf
  /-- PC never exceeds 0x10FE (10_state.md R35). -/
  pcRange : s.pc.toNat ≤ 0x10FE
  /-- I <= 0xFFF always holds (10_state.md R36). -/
  indexRange : s.i.toNat ≤ 0xFFF
  /-- Depth() is in 0..STACK_DEPTH (10_state.md R40). -/
  depth : s.stack.length ≤ s.stackDepth
  /-- STACK_DEPTH is at least 1 (00_scope.md R7). -/
  depthPositive : 1 ≤ s.stackDepth
  /-- A pushed value is at most 0x1000 (41_control_flow.md R174). -/
  returns : ∀ w ∈ s.stack, w.toNat ≤ 0x1000
  /-- Fault is set exactly when Run is Faulted (10_state.md R47, R48). -/
  faultIff : s.run = .faulted ↔ s.fault.isSome
  /-- The record has its shape (10_state.md R48). -/
  faultShape : ∀ r ∈ s.fault, r.fitsState s
  /-- Rom always fits (20_memory.md R83). -/
  romFits : s.rom.base + s.rom.bytes.length ≤ memSize

/-- The parts of the state that a frame speaks of: one byte of memory, one register, one pixel, and each other field. -/
inductive Part where
  | mem (a : Nat)
  | v (r : Reg)
  | opc
  | pc
  | i
  | dt
  | st
  | stack
  | keys
  | pixel (x : Fin 64) (y : Fin 32)
  | run
  | fault
  | rom
  | font
  | stackDepth
  | emitted
  | draws
  deriving DecidableEq, Repr

/-- The part reads the same in both states. -/
def Same (p : Part) (s t : State) : Prop :=
  match p with
  | .mem a => t.mem.get a = s.mem.get a
  | .v r => t.reg r = s.reg r
  | .opc => t.opc = s.opc
  | .pc => t.pc = s.pc
  | .i => t.i = s.i
  | .dt => t.dt = s.dt
  | .st => t.st = s.st
  | .stack => t.stack = s.stack
  | .keys => t.keys = s.keys
  | .pixel x y => Framebuffer.pixel t.fb x y = Framebuffer.pixel s.fb x y
  | .run => t.run = s.run
  | .fault => t.fault = s.fault
  | .rom => t.rom = s.rom
  | .font => t.font = s.font
  | .stackDepth => t.stackDepth = s.stackDepth
  | .emitted => t.emitted = s.emitted
  | .draws => t.draws = s.draws

/-- From `s` to `t` nothing changes but the parts `may` allows. -/
def Frame (may : Part → Prop) (s t : State) : Prop :=
  ∀ p, ¬ may p → Same p s t

/-- The parts an instruction that completes may always change: OPC and PC, which the fetch writes (40_execution_engine.md
R141). -/
def fetchParts (p : Part) : Prop := p = .opc ∨ p = .pc

/-- `i` completes from `s` in `t`: exec answers the next state `t`, OPC holds the opcode, and nothing has changed but PC, OPC
and the parts in `may`. -/
def Completes (ins : Instr) (s t : State) (may : Part → Prop) : Prop :=
  exec ins s = .next t ∧ t.opc = encode ins ∧ Frame (fun p => fetchParts p ∨ may p) s t

/-- `i` takes a fault from `s`: exec answers the state as it was before the fetch, but for Run and Fault (60_exceptions.md
R325, R326). -/
def TakesFault (ins : Instr) (s : State) (kind : Fault) (addr : Option Nat) : Prop :=
  exec ins s = .next { s with run := .faulted, fault := some ⟨kind, s.pc, some (encode ins), addr⟩ }

/-- A sprite of `n` rows at I, drawn at (V[x], V[y]), has a set bit that falls on a pixel: bit 7 - c of row r falls on column
(V[x] + c) mod 64 and row (V[y] + r) mod 32 (44_display.md R272, decision D14). -/
def State.spriteCovers (s : State) (x y : Reg) (n : Nibble) (px : Fin 64) (py : Fin 32) : Bool :=
  (List.range n.toNat).any fun r => (List.range 8).any fun c =>
    (s.mem.get (s.dataAddress + r)).getLsbD (7 - c)
      && (px.val == ((s.reg x).toNat + c) % 64 && py.val == ((s.reg y).toNat + r) % 32)

/-- Every word with the pattern under the mask decodes to the instruction that `mk` makes of its fields (30_encoding.md
R105). -/
def Encoded (pattern mask : Word) (mk : Word → Instr) : Prop :=
  ∀ op : Word, op &&& mask = pattern → decode op = .ok (mk op)

end Sys2Proof.Machine
end

