-- ==== Sys2Proof/Certificates/Slice0/Obligations.lean ====
section
/-! DEFINITION. The statements for the provers, in four groups: encoding, the engine and faults, the instructions, the rules
about the whole machine and the host's operations. `Completes`, `TakesFault`, `Frame`, `Encoded` and `MachineInv` are defined in
Sys2Proof/Safety.lean. A docstring names the decision D<n> of the spec, or the log entry, where a clause rests on one. -/

open Sys2Proof Sys2Proof.Machine

/-! ## Encoding -/

/-- Words written out bit by bit from 30_encoding.md R102 and R120 decode to the instructions they stand for; 0x6005 is the
source's own example (95_test_vectors.md V-L1-8), 0x5001 its Unknown word (V-L1-9). -/
def Obligations.HandWrittenWordsDecode : Prop :=
  decode 0b0000000011100000#16 = .ok .op00E0 ∧
  decode 0b0001101010111100#16 = .ok (.op1NNN 0xABC) ∧
  decode 0b0110000000000101#16 = .ok (.op6XNN 0 0x05) ∧
  decode 0b1000000100100110#16 = .ok (.op8XY6 1 2) ∧
  decode 0b1010001100000000#16 = .ok (.opANNN 0x300) ∧
  decode 0b1101101010110010#16 = .ok (.opDXYN 10 11 2) ∧
  decode 0b1110010110011110#16 = .ok (.opEX9E 5) ∧
  decode 0b1111000101010101#16 = .ok (.opFX55 1) ∧
  decode 0b0101000000000001#16 = .error .unknownOpcode

/-- Decoding an instruction's encoding gives it back, with every operand at every value its field admits, both from the word
and from the bytes as memory holds them, whatever follows. -/
def Obligations.DecodeOfEncode : Prop :=
  ∀ (ins : Instr) (rest : List Byte),
    decode (encode ins) = .ok ins ∧ decodeBytes (encodeBytes ins ++ rest) = .ok (ins, rest)

/-- A word that decodes to an instruction is that instruction's encoding: no bit of a word is ignored. -/
def Obligations.EncodeOfDecode : Prop :=
  ∀ (op : Word) (ins : Instr), decode op = .ok ins → encode ins = op

/-- The decoder is the strict table (30_encoding.md R105, decision D2): the row that matches decides the instruction and its
name, at most one row matches any word (R106), and a word no row matches is Unknown. -/
def Obligations.DecodeFollowsTheUniqueRow : Prop :=
  ∀ op : Word,
    (∀ r ∈ opcodeTable, op &&& r.mask = r.pattern →
      decode op = .ok (r.build op) ∧ (r.build op).mnemonic = r.mnemonic ∧
      ∀ q ∈ opcodeTable, op &&& q.mask = q.pattern → q.mnemonic = r.mnemonic) ∧
    ((∀ r ∈ opcodeTable, op &&& r.mask ≠ r.pattern) → decode op = .error .unknownOpcode)

/-- The Unknown words are those of the table in 30_encoding.md R108, family by family, and no others. -/
def Obligations.UnknownWordsAreThoseListed : Prop :=
  ∀ op : Word, decode op = .error .unknownOpcode ↔
    (op &&& 0xF000 = 0x0000 ∧ op ≠ 0x00E0 ∧ op ≠ 0x00EE) ∨
    (op &&& 0xF000 = 0x5000 ∧ fieldN op ≠ 0) ∨
    (op &&& 0xF000 = 0x8000 ∧ fieldN op ∈ [0x8#4, 0x9#4, 0xA#4, 0xB#4, 0xC#4, 0xD#4, 0xF#4]) ∨
    (op &&& 0xF000 = 0x9000 ∧ fieldN op ≠ 0) ∨
    (op &&& 0xF000 = 0xE000 ∧ fieldNN op ≠ 0x9E ∧ fieldNN op ≠ 0xA1) ∨
    (op &&& 0xF000 = 0xF000 ∧
      fieldNN op ∉ [0x07#8, 0x0A#8, 0x15#8, 0x18#8, 0x1E#8, 0x29#8, 0x33#8, 0x55#8, 0x65#8])

/-! ## The engine and faults -/

/-- A step runs the decoded instruction (20_memory.md R73, 40_execution_engine.md R141, R143): where the word of the two bytes at
PC decodes to `ins`, at any alignment (decision D15, log entry 18), the step of a machine that is not Faulted is exec of `ins` at
that state, and the opcode is Mem[PC] * 256 + Mem[PC + 1]. That exec itself writes OPC and advances PC, so that the step adds
nothing around it, is the model's own choice (log entry 3). -/
def Obligations.StepRunsTheDecodedInstruction : Prop :=
  ∀ (s : State) (ins : Instr), s.safe → s.pc.toNat + 1 < memSize →
    decode (wordOfBytes (s.mem.get s.pc.toNat) (s.mem.get (s.pc.toNat + 1))) = .ok ins →
    step s = exec ins s ∧
      (encode ins).toNat = (s.mem.get s.pc.toNat).toNat * 256 + (s.mem.get (s.pc.toNat + 1)).toNat

/-- An Unknown word, named "???", is a no-op advance: the fetch has set OPC and advanced PC by 2, nothing else changes, so no
fault is raised and no event is emitted (30_encoding.md R107), and Run and Fault are not changed (60_exceptions.md R324). -/
def Obligations.UnknownWordIsNoOpAdvance : Prop :=
  ∀ (s : State) (op : Word), s.safe → fetch s = .ok op → decode op = .error .unknownOpcode →
    nameOfWord op = "???" ∧ ∃ t, step s = .next t ∧ t.opc = op ∧ t.pc = s.pc + 2 ∧ Frame fetchParts s t

/-- A fetch that leaves memory takes OutOfRangeAccess with no opcode: the address is PC when PC >= 4096, else 0x1000, which is
the second byte's (60_exceptions.md R321; the form of the record is decision D27, the precise state D8, Faulted D9). -/
def Obligations.FetchOutsideMemoryTakesFault : Prop :=
  ∀ s : State, s.safe → 0xFFF ≤ s.pc.toNat →
    step s = .next { s with
      run := .faulted
      fault := some ⟨.outOfRangeAccess, s.pc, none, some (if 4096 ≤ s.pc.toNat then s.pc.toNat else 0x1000)⟩ }

/-- Faults are precise (60_exceptions.md R325, decision D8): an instruction that leaves a machine Faulted that was not has
changed nothing but Run and Fault, and the record names its address and opcode (R326, decision D27). -/
def Obligations.InstructionFaultsArePrecise : Prop :=
  ∀ (ins : Instr) (s t : State), s.safe → exec ins s = .next t → t.run = .faulted →
    Frame (fun p => p = .run ∨ p = .fault) s t ∧
    ∃ r, t.fault = some r ∧ r.pc = s.pc ∧ r.opcode = some (encode ins)

/-- Faulted is final until reset (60_exceptions.md R327, decision D9): step, tick, run and stop change nothing, every host
operation but reset leaves the machine Faulted with the same record, and reset leaves Faulted. -/
def Obligations.FaultedIsFinalUntilReset : Prop :=
  ∀ (q : Nat) (s : State), s.run = .faulted →
    step s = .next s ∧ tickWith q s = .next s ∧ runOp s = s ∧ stopOp s = s ∧
    (∀ (c : HostCall) (t : State), c ≠ .reset → c.apply q s = .next t → t.run = .faulted ∧ t.fault = s.fault) ∧
    (resetOp s).run = .stopped ∧ (resetOp s).fault = none

/-- No step, instruction or tick ever stops the model: each answers a next state, from every state. Where a fault is taken, the
next state is the fault's, with Run = Faulted; that a fault is a next state is the model's own reading (log entry 2, DEDUCED from
60_exceptions.md R326). It is no statement of where an instruction completes. -/
def Obligations.EveryStepAnswersANextState : Prop :=
  ∀ (q : Nat) (ins : Instr) (s : State),
    (∃ t, step s = .next t) ∧ (∃ t, exec ins s = .next t) ∧ ∃ t, tickWith q s = .next t

/-- The transitions of Run under each host operation (40_execution_engine.md R145, decision D9 for the Faulted column); run and
stop change nothing else (R149). -/
def Obligations.RunStateTransitions : Prop :=
  ∀ (q : Nat) (c : HostCall) (s t : State), c.apply q s = .next t →
    (c = .reset → t.run = .stopped) ∧
    (s.run = .faulted → c ≠ .reset → t.run = .faulted) ∧
    (s.run ≠ .faulted →
      (c = .run → t.run = .running ∧ Frame (fun p => p = .run) s t) ∧
      (c = .stop → t.run = .stopped ∧ Frame (fun p => p = .run) s t) ∧
      (c = .step ∨ c = .tick → t.run = s.run ∨ t.run = .faulted) ∧
      (∀ k b, c = .setKey k b → t.run = s.run) ∧
      (∀ bytes base, c = .loadProgram bytes base → t.run = s.run))

/-! ## Registers and arithmetic (42_alu.md) -/

/-- 6XNN and 7XNN (R200, R202): V[x] <- NN; V[x] <- (V[x] + NN) mod 256 with no flag. With x = VF, VF is written as data;
every other register, VF among them, is unchanged. -/
def Obligations.LoadAndAddImmediate : Prop :=
  Encoded 0x6000 0xF000 (fun op => .op6XNN (fieldX op) (fieldNN op)) ∧
  Encoded 0x7000 0xF000 (fun op => .op7XNN (fieldX op) (fieldNN op)) ∧
  ∀ (x : Reg) (nn : Byte) (s : State),
    (∃ t, Completes (.op6XNN x nn) s t (fun p => p = .v x) ∧ t.pc = s.pc + 2 ∧ t.reg x = nn) ∧
    (∃ t, Completes (.op7XNN x nn) s t (fun p => p = .v x) ∧ t.pc = s.pc + 2 ∧
      (t.reg x).toNat = ((s.reg x).toNat + nn.toNat) % 256)

/-- 8XY0, 8XY1, 8XY2, 8XY3 (R204, R206, R208, R210): copy, OR, AND, XOR, VF unchanged unless x = VF; 8XYF is Unknown. -/
def Obligations.CopyAndBitwise : Prop :=
  Encoded 0x8000 0xF00F (fun op => .op8XY0 (fieldX op) (fieldY op)) ∧
  Encoded 0x8001 0xF00F (fun op => .op8XY1 (fieldX op) (fieldY op)) ∧
  Encoded 0x8002 0xF00F (fun op => .op8XY2 (fieldX op) (fieldY op)) ∧
  Encoded 0x8003 0xF00F (fun op => .op8XY3 (fieldX op) (fieldY op)) ∧
  (∀ op : Word, op &&& 0xF00F = 0x800F → decode op = .error .unknownOpcode) ∧
  ∀ (x y : Reg) (s : State),
    (∃ t, Completes (.op8XY0 x y) s t (fun p => p = .v x) ∧ t.pc = s.pc + 2 ∧ t.reg x = s.reg y) ∧
    (∃ t, Completes (.op8XY1 x y) s t (fun p => p = .v x) ∧ t.pc = s.pc + 2 ∧ t.reg x = s.reg x ||| s.reg y) ∧
    (∃ t, Completes (.op8XY2 x y) s t (fun p => p = .v x) ∧ t.pc = s.pc + 2 ∧ t.reg x = s.reg x &&& s.reg y) ∧
    (∃ t, Completes (.op8XY3 x y) s t (fun p => p = .v x) ∧ t.pc = s.pc + 2 ∧ t.reg x = s.reg x ^^^ s.reg y)

/-- 8XY4 (R212): VF is the carry, V[x] the sum mod 256. The forms with x = VF or y = VF are the corner cases of R212, which
rest on decision D3: the second statement reads the new VF. -/
def Obligations.AddWithCarry : Prop :=
  Encoded 0x8004 0xF00F (fun op => .op8XY4 (fieldX op) (fieldY op)) ∧
  ∀ (x y : Reg) (s : State),
    let a := (s.reg x).toNat
    let b := (s.reg y).toNat
    let c := if 255 < a + b then 1 else 0
    ∃ t, Completes (.op8XY4 x y) s t (fun p => p = .v x ∨ p = .v VF) ∧ t.pc = s.pc + 2 ∧
      (x ≠ VF → y ≠ VF → (t.reg x).toNat = (a + b) % 256 ∧ (t.reg VF).toNat = c) ∧
      (x = VF → y ≠ VF → (t.reg VF).toNat = (c + b) % 256) ∧
      (x ≠ VF → y = VF → (t.reg x).toNat = (a + c) % 256 ∧ (t.reg VF).toNat = c) ∧
      (x = VF → y = VF → (t.reg VF).toNat = 2 * c)

/-- 8XY5 and 8XY7 (R214, R218): VF is 1 when there is no borrow, V[x] the difference mod 256, VX - VY or VY - VX. The forms
with x = VF or y = VF are the corner cases of those rules, which rest on decision D3. -/
def Obligations.SubtractWithNoBorrowFlag : Prop :=
  Encoded 0x8005 0xF00F (fun op => .op8XY5 (fieldX op) (fieldY op)) ∧
  Encoded 0x8007 0xF00F (fun op => .op8XY7 (fieldX op) (fieldY op)) ∧
  ∀ (x y : Reg) (s : State),
    let a := (s.reg x).toNat
    let b := (s.reg y).toNat
    let c := if b ≤ a then 1 else 0
    let d := if a ≤ b then 1 else 0
    (∃ t, Completes (.op8XY5 x y) s t (fun p => p = .v x ∨ p = .v VF) ∧ t.pc = s.pc + 2 ∧
      (x ≠ VF → y ≠ VF → (t.reg x).toNat = (a + 256 - b) % 256 ∧ (t.reg VF).toNat = c) ∧
      (x = VF → y ≠ VF → (t.reg VF).toNat = (c + 256 - b) % 256) ∧
      (x ≠ VF → y = VF → (t.reg x).toNat = (a + 256 - c) % 256 ∧ (t.reg VF).toNat = c) ∧
      (x = VF → y = VF → (t.reg VF).toNat = 0)) ∧
    (∃ t, Completes (.op8XY7 x y) s t (fun p => p = .v x ∨ p = .v VF) ∧ t.pc = s.pc + 2 ∧
      (x ≠ VF → y ≠ VF → (t.reg x).toNat = (b + 256 - a) % 256 ∧ (t.reg VF).toNat = d) ∧
      (x = VF → y ≠ VF → (t.reg VF).toNat = (b + 256 - d) % 256) ∧
      (x ≠ VF → y = VF → (t.reg x).toNat = (d + 256 - a) % 256 ∧ (t.reg VF).toNat = d) ∧
      (x = VF → y = VF → (t.reg VF).toNat = 0))

/-- 8XY6 and 8XYE (R216, R220): V[x] is halved or doubled mod 256, VF is the bit shifted out, and V[y] is not read: the result
is the same for every y. With x = VF (decision D3) VF ends 0, or 2 if bit 7 was set, else 0. -/
def Obligations.ShiftByOne : Prop :=
  Encoded 0x8006 0xF00F (fun op => .op8XY6 (fieldX op) (fieldY op)) ∧
  Encoded 0x800E 0xF00F (fun op => .op8XYE (fieldX op) (fieldY op)) ∧
  ∀ (x y : Reg) (s : State),
    let a := (s.reg x).toNat
    (∃ t, Completes (.op8XY6 x y) s t (fun p => p = .v x ∨ p = .v VF) ∧ t.pc = s.pc + 2 ∧
      (x ≠ VF → (t.reg x).toNat = a / 2 ∧ (t.reg VF).toNat = a % 2) ∧
      (x = VF → (t.reg VF).toNat = 0)) ∧
    (∃ t, Completes (.op8XYE x y) s t (fun p => p = .v x ∨ p = .v VF) ∧ t.pc = s.pc + 2 ∧
      (x ≠ VF → (t.reg x).toNat = a * 2 % 256 ∧ (t.reg VF).toNat = a / 128) ∧
      (x = VF → (t.reg VF).toNat = 2 * (a / 128)))

/-- CXNN (R222, decision D20): V[x] is the draw's byte AND NN, for a draw of which nothing is known; each bit that NN clears is
0, and one draw is taken. -/
def Obligations.RandomMaskedByte : Prop :=
  Encoded 0xC000 0xF000 (fun op => .opCXNN (fieldX op) (fieldNN op)) ∧
  ∀ (x : Reg) (nn : Byte) (s : State),
    ∃ t, Completes (.opCXNN x nn) s t (fun p => p = .v x ∨ p = .draws) ∧ t.pc = s.pc + 2 ∧
      t.reg x = Config.randomByte s.draws &&& nn ∧ t.draws = s.draws + 1 ∧
      ∀ k, nn.getLsbD k = false → (t.reg x).getLsbD k = false

/-! ## Control flow (41_control_flow.md) -/

/-- 1NNN and BNNN (R172, R186): PC <- NNN; PC <- V0 + NNN, a number up to 0x10FE that is not masked, whatever the X field. No
target is checked: 1FFF makes the next fetch fault at 0x1000, and so does every target of BNNN above 0xFFE, at the first byte
outside memory. A jump to its own address parks the program: it is left as it was, but for OPC. -/
def Obligations.JumpTargets : Prop :=
  Encoded 0x1000 0xF000 (fun op => .op1NNN (fieldNNN op)) ∧
  Encoded 0xB000 0xF000 (fun op => .opBNNN (fieldNNN op)) ∧
  ∀ (nnn : Addr12) (s : State),
    (∃ t, Completes (.op1NNN nnn) s t (fun _ => False) ∧ t.pc.toNat = nnn.toNat ∧
      (nnn = 0xFFF → fetch t = .error (outOfRange 0x1000)) ∧
      (s.pc.toNat = nnn.toNat → Frame (fun p => p = .opc) s t)) ∧
    (∃ t, Completes (.opBNNN nnn) s t (fun _ => False) ∧ t.pc.toNat = (s.reg V0).toNat + nnn.toNat ∧
      (0xFFE < t.pc.toNat → fetch t = .error (outOfRange (max t.pc.toNat 0x1000))))

/-- 2NNN (R174): with room on the stack, the address of the next instruction is pushed on top and PC <- NNN; with STACK_DEPTH
entries it takes StackOverflow, nothing pushed (the precise state is decision D8, Faulted D9), whatever STACK_DEPTH the machine
was constructed with. -/
def Obligations.CallPushesReturnAddress : Prop :=
  Encoded 0x2000 0xF000 (fun op => .op2NNN (fieldNNN op)) ∧
  ∀ (nnn : Addr12) (s : State),
    (s.stack.length ≠ s.stackDepth →
      ∃ t, Completes (.op2NNN nnn) s t (fun p => p = .stack) ∧ t.pc.toNat = nnn.toNat ∧
        t.stack = s.stack ++ [s.pc + 2]) ∧
    (s.stack.length = s.stackDepth → TakesFault (.op2NNN nnn) s .stackOverflow none)

/-- 00EE (R170): PC <- the top entry, unmasked, which leaves the stack; on an empty stack it takes StackUnderflow (the precise
state is decision D8, Faulted D9). -/
def Obligations.ReturnPopsTopEntry : Prop :=
  Encoded 0x00EE 0xFFFF (fun _ => .op00EE) ∧
  ∀ s : State,
    (∀ (ws : List Word) (w : Word), s.stack = ws ++ [w] →
      ∃ t, Completes .op00EE s t (fun p => p = .stack) ∧ t.pc = w ∧ t.stack = ws) ∧
    (s.stack = [] → TakesFault .op00EE s .stackUnderflow none)

/-- The source's return property (R174): a return with the stack as the call left it, from any state of the rest of the
machine, restores PC to the address after the call, and the stack to what it was. -/
def Obligations.CallThenReturnRestores : Prop :=
  ∀ (nnn : Addr12) (s u : State), s.stack.length < s.stackDepth →
    ∃ t, exec (.op2NNN nnn) s = .next t ∧
      (u.stack = t.stack → ∃ w, exec .op00EE u = .next w ∧ w.pc = s.pc + 2 ∧ w.stack = s.stack)

/-- 3XNN and 4XNN (R176, R178): PC ends 4 past the instruction where V[x] equals NN, or differs from it, and 2 past it
otherwise; nothing else changes. VF is compared as any register. A skip past 0xFFE makes the next fetch fault. -/
def Obligations.SkipOnImmediate : Prop :=
  Encoded 0x3000 0xF000 (fun op => .op3XNN (fieldX op) (fieldNN op)) ∧
  Encoded 0x4000 0xF000 (fun op => .op4XNN (fieldX op) (fieldNN op)) ∧
  ∀ (x : Reg) (nn : Byte) (s : State),
    (∃ t, Completes (.op3XNN x nn) s t (fun _ => False) ∧
      (t.pc = if s.reg x = nn then s.pc + 4 else s.pc + 2) ∧
      (0xFFE < t.pc.toNat → fetch t = .error (outOfRange (max t.pc.toNat 0x1000)))) ∧
    (∃ t, Completes (.op4XNN x nn) s t (fun _ => False) ∧
      (t.pc = if s.reg x = nn then s.pc + 2 else s.pc + 4) ∧
      (0xFFE < t.pc.toNat → fetch t = .error (outOfRange (max t.pc.toNat 0x1000))))

/-- 5XY0 and 9XY0 (R180, R182): as the immediate skips, on V[x] and V[y]; with x = y the first always skips and the second
never. That their low nibble must be 0 is decision D2. -/
def Obligations.SkipOnRegisters : Prop :=
  Encoded 0x5000 0xF00F (fun op => .op5XY0 (fieldX op) (fieldY op)) ∧
  Encoded 0x9000 0xF00F (fun op => .op9XY0 (fieldX op) (fieldY op)) ∧
  ∀ (x y : Reg) (s : State),
    (∃ t, Completes (.op5XY0 x y) s t (fun _ => False) ∧
      t.pc = if s.reg x = s.reg y then s.pc + 4 else s.pc + 2) ∧
    (∃ t, Completes (.op9XY0 x y) s t (fun _ => False) ∧
      t.pc = if s.reg x = s.reg y then s.pc + 2 else s.pc + 4)

/-! ## Index register and memory (43_index_memory.md) -/

/-- ANNN and FX29 (R240, R244): I <- NNN; I <- V[x] * 5, V[x] not masked. -/
def Obligations.IndexLoads : Prop :=
  Encoded 0xA000 0xF000 (fun op => .opANNN (fieldNNN op)) ∧
  Encoded 0xF029 0xF0FF (fun op => .opFX29 (fieldX op)) ∧
  ∀ (nnn : Addr12) (x : Reg) (s : State),
    (∃ t, Completes (.opANNN nnn) s t (fun p => p = .i) ∧ t.pc = s.pc + 2 ∧ t.i.toNat = nnn.toNat) ∧
    (∃ t, Completes (.opFX29 x) s t (fun p => p = .i) ∧ t.pc = s.pc + 2 ∧ t.i.toNat = (s.reg x).toNat * 5)

/-- FX1E (R242): VF is 1 when I + V[x] passes 0xFFF, else 0 (decision D4), and I wraps at 12 bits; with x = VF (decision D3) the
sum takes the new VF. -/
def Obligations.AddToIndexWraps : Prop :=
  Encoded 0xF01E 0xF0FF (fun op => .opFX1E (fieldX op)) ∧
  ∀ (x : Reg) (s : State),
    let c := if 0xFFF < s.i.toNat + (s.reg x).toNat then 1 else 0
    ∃ t, Completes (.opFX1E x) s t (fun p => p = .i ∨ p = .v VF) ∧ t.pc = s.pc + 2 ∧ (t.reg VF).toNat = c ∧
      (x ≠ VF → t.i.toNat = (s.i.toNat + (s.reg x).toNat) % 0x1000) ∧
      (x = VF → t.i.toNat = (s.i.toNat + c) % 0x1000)

/-- FX33 (R246): the decimal digits of V[x], hundreds first, at the three addresses from I, and no other byte changes; where
the block leaves memory it takes OutOfRangeAccess at the first address outside it, which is 0x1000 for I <= 0xFFF, nothing
written (decision D8). -/
def Obligations.StoreDecimalDigits : Prop :=
  Encoded 0xF033 0xF0FF (fun op => .opFX33 (fieldX op)) ∧
  ∀ (x : Reg) (s : State),
    let v := (s.reg x).toNat
    (s.dataAddress + 2 < memSize →
      ∃ t, Completes (.opFX33 x) s t (fun p => ∃ k, k < 3 ∧ p = .mem (s.dataAddress + k)) ∧ t.pc = s.pc + 2 ∧
        (t.mem.get s.dataAddress).toNat = v / 100 ∧
        (t.mem.get (s.dataAddress + 1)).toNat = v / 10 % 10 ∧
        (t.mem.get (s.dataAddress + 2)).toNat = v % 10) ∧
    (memSize ≤ s.dataAddress + 2 →
      TakesFault (.opFX33 x) s .outOfRangeAccess (some (max s.dataAddress 0x1000)))

/-- FX55 (R248): V0..VX at the addresses I..I + X, no other byte and no register changed; where the block leaves memory it takes
OutOfRangeAccess at the first address outside it, which is 0x1000 for I <= 0xFFF, nothing written (decision D8). -/
def Obligations.StoreRegisterBlock : Prop :=
  Encoded 0xF055 0xF0FF (fun op => .opFX55 (fieldX op)) ∧
  ∀ (x : Reg) (s : State),
    (s.dataAddress + x.val < memSize →
      ∃ t, Completes (.opFX55 x) s t (fun p => ∃ k, k ≤ x.val ∧ p = .mem (s.dataAddress + k)) ∧ t.pc = s.pc + 2 ∧
        ∀ k : Reg, k ≤ x → t.mem.get (s.dataAddress + k.val) = s.reg k) ∧
    (memSize ≤ s.dataAddress + x.val →
      TakesFault (.opFX55 x) s .outOfRangeAccess (some (max s.dataAddress 0x1000)))

/-- FX65 (R250): V0..VX from the addresses I..I + X, no other register and no byte changed; where the block leaves memory it
takes OutOfRangeAccess at the first address outside it, which is 0x1000 for I <= 0xFFF, no register written (decision D8). -/
def Obligations.LoadRegisterBlock : Prop :=
  Encoded 0xF065 0xF0FF (fun op => .opFX65 (fieldX op)) ∧
  ∀ (x : Reg) (s : State),
    (s.dataAddress + x.val < memSize →
      ∃ t, Completes (.opFX65 x) s t (fun p => ∃ k : Reg, k ≤ x ∧ p = .v k) ∧ t.pc = s.pc + 2 ∧
        ∀ k : Reg, k ≤ x → t.reg k = s.mem.get (s.dataAddress + k.val)) ∧
    (memSize ≤ s.dataAddress + x.val →
      TakesFault (.opFX65 x) s .outOfRangeAccess (some (max s.dataAddress 0x1000)))

/-- The source's round trip (R250): V0..VX stored at I are loaded back by any machine with that memory and that I, whatever its
registers hold by then, for every x. -/
def Obligations.StoreThenLoadRestoresRegisters : Prop :=
  ∀ (x : Reg) (s u : State), s.dataAddress + x.val < memSize →
    ∃ t, exec (.opFX55 x) s = .next t ∧
      (u.mem = t.mem → u.i = t.i →
        ∃ w, exec (.opFX65 x) u = .next w ∧ ∀ k : Reg, k ≤ x → w.reg k = s.reg k)

/-- A store is seen by the next fetch (20_memory.md R74, R85, 70_reset_and_hazards.md R371, decision D16): after FX55 or FX33 the
next fetch gives the word of the two bytes after the instruction as the store has left them, the lower address high. A byte the
store covers, be it both, one or none of the two, is the register or the digit stored there, and any other byte is as before. -/
def Obligations.StoredWordIsFetchedNext : Prop :=
  ∀ (x : Reg) (s : State), s.pc.toNat + 3 < memSize →
    (s.dataAddress + x.val < memSize →
      ∃ (t : State) (now : Nat → Byte), exec (.opFX55 x) s = .next t ∧
        fetch t = .ok (wordOfBytes (now (s.pc.toNat + 2)) (now (s.pc.toNat + 3))) ∧
        (∀ k : Reg, k ≤ x → now (s.dataAddress + k.val) = s.reg k) ∧
        ∀ a, (∀ k : Reg, k ≤ x → a ≠ s.dataAddress + k.val) → now a = s.mem.get a) ∧
    (s.dataAddress + 2 < memSize →
      ∃ (t : State) (now : Nat → Byte), exec (.opFX33 x) s = .next t ∧
        fetch t = .ok (wordOfBytes (now (s.pc.toNat + 2)) (now (s.pc.toNat + 3))) ∧
        (now s.dataAddress).toNat = (s.reg x).toNat / 100 ∧
        (now (s.dataAddress + 1)).toNat = (s.reg x).toNat / 10 % 10 ∧
        (now (s.dataAddress + 2)).toNat = (s.reg x).toNat % 10 ∧
        ∀ a, (∀ k, k < 3 → a ≠ s.dataAddress + k) → now a = s.mem.get a)

/-! ## Display (44_display.md) -/

/-- 00E0 (R270): every pixel is off; one FramebufferChanged is emitted, also for a blank screen (decision D19). -/
def Obligations.ClearScreen : Prop :=
  Encoded 0x00E0 0xFFFF (fun _ => .op00E0) ∧
  ∀ s : State,
    ∃ t, Completes .op00E0 s t (fun p => (∃ x y, p = .pixel x y) ∨ p = .emitted) ∧ t.pc = s.pc + 2 ∧
      (∀ x y, Framebuffer.pixel t.fb x y = false) ∧ t.emitted = s.emitted ++ [.framebufferChanged]

/-- DXYN (R272): where its N rows lie in memory (always for N = 0), each pixel is inverted exactly where a set sprite bit falls
on it, wrapped on both axes, at the coordinates V[x] and V[y] held BEFORE the draw, also for x = VF or y = VF; VF is 1 when such
a pixel was on, else 0; one FramebufferChanged is emitted. Where the rows leave memory it takes OutOfRangeAccess at the first
address outside it, 0x1000 for I <= 0xFFF (decision D8). That bit 7 is the leftmost column is decision D14 (log entry 17). -/
def Obligations.DrawSpriteXorsAndDetectsCollision : Prop :=
  Encoded 0xD000 0xF000 (fun op => .opDXYN (fieldX op) (fieldY op) (fieldN op)) ∧
  ∀ (x y : Reg) (n : Nibble) (s : State),
    (n = 0 ∨ s.dataAddress + n.toNat ≤ memSize →
      ∃ t, Completes (.opDXYN x y n) s t (fun p => (∃ px py, p = .pixel px py) ∨ p = .v VF ∨ p = .emitted) ∧
        t.pc = s.pc + 2 ∧
        (∀ px py, Framebuffer.pixel t.fb px py = (Framebuffer.pixel s.fb px py ^^ s.spriteCovers x y n px py)) ∧
        ((∃ px py, s.spriteCovers x y n px py = true ∧ Framebuffer.pixel s.fb px py = true) → t.reg VF = 1) ∧
        ((∀ px py, s.spriteCovers x y n px py = true → Framebuffer.pixel s.fb px py = false) → t.reg VF = 0) ∧
        t.emitted = s.emitted ++ [.framebufferChanged]) ∧
    (n ≠ 0 ∧ memSize < s.dataAddress + n.toNat →
      TakesFault (.opDXYN x y n) s .outOfRangeAccess (some (max s.dataAddress 0x1000)))

/-- The source's idempotence (R272): drawing the same sprite twice at the same place restores the framebuffer. The second draw
collides exactly where the first turned a pixel on. Where the first draw met no pixel that was on (as R272 takes it: "VF reflects
collisions only on the second draw"), the second draw's VF is 1 exactly when the sprite has a set bit in its N rows; R272 says
that without the condition, and the model's reading of it is log entry 29 (DEDUCED). The second draw starts from any machine with
the first's framebuffer, the same memory and I, and the same coordinates. Which pixels a set bit covers rests on the bit order of
decision D14 (log entry 17, PRESUMED). -/
def Obligations.DrawTwiceRestoresFramebuffer : Prop :=
  ∀ (x y : Reg) (n : Nibble) (s u : State), s.dataAddress + n.toNat ≤ memSize →
    ∃ t, exec (.opDXYN x y n) s = .next t ∧
      (u.fb = t.fb → u.mem = s.mem → u.i = s.i → u.reg x = s.reg x → u.reg y = s.reg y →
        ∃ w, exec (.opDXYN x y n) u = .next w ∧ w.fb = s.fb ∧
          ((∃ px py, s.spriteCovers x y n px py = true ∧ Framebuffer.pixel s.fb px py = false) → w.reg VF = 1) ∧
          ((∀ px py, s.spriteCovers x y n px py = true → Framebuffer.pixel s.fb px py = true) → w.reg VF = 0) ∧
          ((∀ px py, s.spriteCovers x y n px py = true → Framebuffer.pixel s.fb px py = false) →
            w.reg VF = (if (List.range n.toNat).all fun r => s.mem.get (s.dataAddress + r) == 0 then 0 else 1)))

/-! ## Keypad and timers (45_input_timers.md) -/

/-- EX9E and EXA1 (R292, R294): for a key number V[x] of 0..15, PC ends 4 past the instruction where that key is pressed, or
released, and 2 past it otherwise; a key number above 15 takes OutOfRangeAccess with that number (R290, decision D5). -/
def Obligations.SkipOnKey : Prop :=
  Encoded 0xE09E 0xF0FF (fun op => .opEX9E (fieldX op)) ∧
  Encoded 0xE0A1 0xF0FF (fun op => .opEXA1 (fieldX op)) ∧
  ∀ (x : Reg) (s : State),
    (∀ h : (s.reg x).toNat < 16,
      (∃ t, Completes (.opEX9E x) s t (fun _ => False) ∧
        t.pc = if s.pressed ⟨(s.reg x).toNat, h⟩ then s.pc + 4 else s.pc + 2) ∧
      (∃ t, Completes (.opEXA1 x) s t (fun _ => False) ∧
        t.pc = if s.pressed ⟨(s.reg x).toNat, h⟩ then s.pc + 2 else s.pc + 4)) ∧
    (16 ≤ (s.reg x).toNat →
      TakesFault (.opEX9E x) s .outOfRangeAccess (some (s.reg x).toNat) ∧
      TakesFault (.opEXA1 x) s .outOfRangeAccess (some (s.reg x).toNat))

/-- FX0A (R296, decision D7): with no key pressed PC is back at the instruction and nothing but OPC changes; with some key
pressed V[x] is the number of A pressed key, which one being a free choice, and PC advances. -/
def Obligations.WaitForKey : Prop :=
  Encoded 0xF00A 0xF0FF (fun op => .opFX0A (fieldX op)) ∧
  ∀ (x : Reg) (s : State),
    ((∀ k, s.pressed k = false) →
      ∃ t, Completes (.opFX0A x) s t (fun _ => False) ∧ t.pc = s.pc) ∧
    ((∃ k, s.pressed k = true) →
      ∃ t k, Completes (.opFX0A x) s t (fun p => p = .v x ∨ p = .draws) ∧ t.pc = s.pc + 2 ∧
        s.pressed k = true ∧ (t.reg x).toNat = k.val ∧ t.draws = s.draws + 1)

/-- FX07, FX15 and FX18 (R300, R302, R304): V[x] <- DT; DT <- V[x]; ST <- V[x]; nothing else changes. After FX15 and FX18 on a
Stopped machine, k ticks leave DT or ST at V[x] - k, not below 0, and after FX18 emit one ToneRequest each while ST was above
0. -/
def Obligations.TimerMoves : Prop :=
  Encoded 0xF007 0xF0FF (fun op => .opFX07 (fieldX op)) ∧
  Encoded 0xF015 0xF0FF (fun op => .opFX15 (fieldX op)) ∧
  Encoded 0xF018 0xF0FF (fun op => .opFX18 (fieldX op)) ∧
  ∀ (x : Reg) (s : State),
    (∃ t, Completes (.opFX07 x) s t (fun p => p = .v x) ∧ t.pc = s.pc + 2 ∧ t.reg x = s.dt) ∧
    (∃ t, Completes (.opFX15 x) s t (fun p => p = .dt) ∧ t.pc = s.pc + 2 ∧ t.dt = s.reg x ∧
      (s.run = .stopped → ∀ q k, ∃ u, applyCalls q (List.replicate k .tick) t = .next u ∧
        u.dt.toNat = (s.reg x).toNat - k)) ∧
    (∃ t, Completes (.opFX18 x) s t (fun p => p = .st) ∧ t.pc = s.pc + 2 ∧ t.st = s.reg x ∧
      (s.run = .stopped → ∀ q k, ∃ u, applyCalls q (List.replicate k .tick) t = .next u ∧
        u.st.toNat = (s.reg x).toNat - k ∧
        u.emitted = s.emitted ++ List.replicate (min k (s.reg x).toNat) .toneRequest))

/-! ## Rules about the whole machine -/

/-- VF (10_state.md R32): an instruction that changes VF is one of the seven flag writers, or names VF as its destination:
6XNN, 7XNN, 8XY0, 8XY1, 8XY2, 8XY3, CXNN, FX07, FX0A with x = VF, or FX65 with X = F. No other instruction writes VF. -/
def Obligations.OnlyListedInstructionsWriteVF : Prop :=
  ∀ (ins : Instr) (s t : State), exec ins s = .next t → t.reg VF ≠ s.reg VF →
    (∃ x y, ins = .op8XY4 x y ∨ ins = .op8XY5 x y ∨ ins = .op8XY6 x y ∨ ins = .op8XY7 x y ∨ ins = .op8XYE x y) ∨
    (∃ x y n, ins = .opDXYN x y n) ∨ (∃ x, ins = .opFX1E x) ∨
    (∃ nn, ins = .op6XNN VF nn ∨ ins = .op7XNN VF nn ∨ ins = .opCXNN VF nn) ∨
    (∃ y, ins = .op8XY0 VF y ∨ ins = .op8XY1 VF y ∨ ins = .op8XY2 VF y ∨ ins = .op8XY3 VF y) ∨
    ins = .opFX07 VF ∨ ins = .opFX0A VF ∨ ins = .opFX65 VF

/-- PC (10_state.md R34): after reset it is 0x200; an instruction that completes leaves PC 2 past where it was, but for 00EE,
1NNN, 2NNN, BNNN, the skips 3XNN, 4XNN, 5XY0, 9XY0, EX9E, EXA1, and FX0A; and each of the other instructions does leave it
there. -/
def Obligations.OnlyListedInstructionsRedirectPC : Prop :=
  State.reset.pc = 0x200 ∧ (∀ s : State, (resetOp s).pc = 0x200) ∧
  ∀ (ins : Instr) (s t : State), s.safe → exec ins s = .next t → t.safe → t.pc ≠ s.pc + 2 →
    ins = .op00EE ∨ (∃ nnn, ins = .op1NNN nnn ∨ ins = .op2NNN nnn ∨ ins = .opBNNN nnn) ∨
    (∃ x nn, ins = .op3XNN x nn ∨ ins = .op4XNN x nn) ∨ (∃ x y, ins = .op5XY0 x y ∨ ins = .op9XY0 x y) ∨
    ∃ x, ins = .opEX9E x ∨ ins = .opEXA1 x ∨ ins = .opFX0A x

/-- I (10_state.md R36): an instruction that changes I is ANNN, FX1E or FX29, and leaves it at most 0xFFF. -/
def Obligations.OnlyListedInstructionsWriteIndex : Prop :=
  ∀ (ins : Instr) (s t : State), exec ins s = .next t → t.i ≠ s.i →
    ((∃ nnn, ins = .opANNN nnn) ∨ ∃ x, ins = .opFX1E x ∨ ins = .opFX29 x) ∧ t.i.toNat ≤ 0xFFF

/-- The timers and the keypad (10_state.md R37, R38, R42; 60_exceptions.md R342; 40_execution_engine.md R156, decision D21): of the
steps only one that runs FX15 changes DT, only one that runs FX18 changes ST; no step changes a key slot or Rom, and no step emits
a ToneRequest. No tick changes a key slot or Rom, whatever its quota. -/
def Obligations.StepNeverCountsTimers : Prop :=
  (∀ (q : Nat) (s t : State), tickWith q s = .next t → t.keys = s.keys ∧ t.rom = s.rom) ∧
  ∀ s t : State, step s = .next t →
    (t.dt ≠ s.dt → ∃ op x, fetch s = .ok op ∧ decode op = .ok (.opFX15 x)) ∧
    (t.st ≠ s.st → ∃ op x, fetch s = .ok op ∧ decode op = .ok (.opFX18 x)) ∧
    t.keys = s.keys ∧ t.rom = s.rom ∧
    (t.emitted = s.emitted ∨ t.emitted = s.emitted ++ [.framebufferChanged])

/-- The framebuffer (10_state.md R44): 64 by 32 pixels, all off after reset; of the instructions only 00E0 and DXYN change a
pixel, and of the host's operations only those that run instructions, and reset. -/
def Obligations.OnlyClearAndDrawChangePixels : Prop :=
  (∀ x y, Framebuffer.pixel State.reset.fb x y = false) ∧
  (∀ (s : State) (x : Fin 64) (y : Fin 32), Framebuffer.pixel (resetOp s).fb x y = false) ∧
  (∀ (ins : Instr) (s t : State), exec ins s = .next t → t.fb ≠ s.fb →
    ins = .op00E0 ∨ ∃ x y n, ins = .opDXYN x y n) ∧
  (∀ (q : Nat) (c : HostCall) (s t : State), c.apply q s = .next t → t.fb ≠ s.fb →
    c = .reset ∨ c = .step ∨ c = .tick)

/-- Memory (20_memory.md R70, 43_index_memory.md R252): an instruction that changes a byte of memory is FX33 with the byte
among the three from I, or FX55 with the byte among the X + 1 from I. -/
def Obligations.OnlyStoresChangeMemory : Prop :=
  ∀ (ins : Instr) (s t : State) (a : Nat), exec ins s = .next t → t.mem.get a ≠ s.mem.get a →
    a < memSize ∧
    ((∃ x, ins = .opFX33 x ∧ s.dataAddress ≤ a ∧ a < s.dataAddress + 3) ∨
      ∃ x, ins = .opFX55 x ∧ s.dataAddress ≤ a ∧ a ≤ s.dataAddress + x.val)

/-- The call stack (10_state.md R40, R41): an instruction that changes it is 2NNN, which adds one entry on top, or 00EE, which
takes the top one; and it changes by nothing else of the host's operations but reset and those that run instructions. -/
def Obligations.OnlyCallAndReturnChangeStack : Prop :=
  (∀ (ins : Instr) (s t : State), exec ins s = .next t → t.stack ≠ s.stack →
    ((∃ nnn, ins = .op2NNN nnn) ∧ t.stack = s.stack ++ [s.pc + 2]) ∨ (ins = .op00EE ∧ ∃ w, s.stack = t.stack ++ [w])) ∧
  (∀ (q : Nat) (c : HostCall) (s t : State), c.apply q s = .next t → t.stack ≠ s.stack →
    c = .reset ∨ c = .step ∨ c = .tick)

/-- OPC (10_state.md R39): it is 0 after reset, a step that fetches a word and takes no fault leaves the word there, each
instruction that completes leaves its opcode there, and no instruction reads it: from two states that differ only in OPC, an instruction answers the same state, or, when it takes a fault, states that
still differ only in OPC. That a fault leaves OPC as it was, not as the fetch wrote it, is 60_exceptions.md R325 and decision D8
(log entry 16). -/
def Obligations.NoInstructionReadsOPC : Prop :=
  State.reset.opc = 0 ∧ (∀ s : State, (resetOp s).opc = 0) ∧
  (∀ (s t : State) (op : Word), s.safe → fetch s = .ok op → step s = .next t → t.safe → t.opc = op) ∧
  ∀ (ins : Instr) (s t : State) (w : Word), s.safe → exec ins s = .next t →
    (t.safe → t.opc = encode ins ∧ exec ins { s with opc := w } = .next t) ∧
    (t.run = .faulted → exec ins { s with opc := w } = .next { t with opc := w })

/-- ST (10_state.md R38): no instruction reads it. From two states that differ only in ST, an instruction other than FX18
answers states that differ only in ST, which it does not write, and FX18 answers the same state. -/
def Obligations.NoInstructionReadsST : Prop :=
  ∀ (ins : Instr) (s t : State) (b : Byte), exec ins s = .next t →
    ((∃ x, ins = .opFX18 x) → exec ins { s with st := b } = .next t) ∧
    ((∀ x, ins ≠ .opFX18 x) → t.st = s.st ∧ exec ins { s with st := b } = .next { t with st := b })

/-- A parked program (40_execution_engine.md R162, which the spec marks as a convention of its own) stays parked: a step
changes nothing but OPC, which then holds the jump. -/
def Obligations.ParkedStaysParked : Prop :=
  ∀ (s : State) (a : Addr12), s.parkedAt a →
    ∃ t, step s = .next t ∧ Frame (fun p => p = .opc) s t ∧ t.opc = encode (.op1NNN a) ∧ t.parkedAt a

/-! ## The host's operations -/

/-- The timer rules (60_exceptions.md R340, R341): at the start of a tick that does not find the machine Faulted, DT and ST are
each decremented if above 0, never wrapping, and one ToneRequest is emitted exactly when ST was above 0; nothing else changes.
Then a Stopped machine's tick ends, and a Running one runs its quota. DT and ST are 0 after reset. -/
def Obligations.TickCountsTimersFirst : Prop :=
  State.reset.dt = 0 ∧ State.reset.st = 0 ∧ (∀ s : State, (resetOp s).dt = 0 ∧ (resetOp s).st = 0) ∧
  ∀ (q : Nat) (s : State), s.safe →
    ∃ u, Frame (fun p => p = .dt ∨ p = .st ∨ p = .emitted) s u ∧
      u.dt.toNat = s.dt.toNat - 1 ∧ u.st.toNat = s.st.toNat - 1 ∧
      u.emitted = s.emitted ++ (if 0 < s.st.toNat then [.toneRequest] else []) ∧
      (s.run = .stopped → tickWith q s = .next u) ∧ (s.run = .running → tickWith q s = quotaLoop q u)

/-- The quota loop (40_execution_engine.md R146, R148; that it ends at a fault is decision D26): a quota of 0 runs nothing, a quota
of 1 is one step, and a quota of m + n runs m instructions and then n from where those left the machine; what a fault ended stays
as it is. A Running machine's tick is that loop after the timer rule (TickCountsTimersFirst). -/
def Obligations.QuotaSplits : Prop :=
  ∀ (m n : Nat) (s : State),
    quotaLoop 0 s = .next s ∧ (s.safe → quotaLoop 1 s = step s) ∧
    ∃ t, quotaLoop m s = .next t ∧ quotaLoop (m + n) s = quotaLoop n t ∧
      (t.run = .faulted → quotaLoop (m + n) s = .next t)

/-- FX0A under tick (45_input_timers.md R296, decision D24): with no key pressed a Running machine at FX0A spends any quota
there. PC, the registers, memory and all else stay; only OPC moves, the timers count down, and a ToneRequest is emitted exactly when
ST was above 0. -/
def Obligations.KeyWaitSpendsTheQuota : Prop :=
  ∀ (q : Nat) (x : Reg) (s : State), s.run = .running → fetch s = .ok (encode (.opFX0A x)) →
    (∀ k, s.pressed k = false) →
    ∃ t, tickWith q s = .next t ∧ Frame (fun p => p = .opc ∨ p = .dt ∨ p = .st ∨ p = .emitted) s t ∧
      t.dt.toNat = s.dt.toNat - 1 ∧ t.st.toNat = s.st.toNat - 1 ∧
      t.emitted = s.emitted ++ (if 0 < s.st.toNat then [.toneRequest] else [])

/-- setKey (40_execution_engine.md R156, decision D21): slot k of 0..15 becomes b, every other slot and all else stay, in every
run state; k above 15 is refused. -/
def Obligations.SetKeyWritesOneSlot : Prop :=
  ∀ (k : Nat) (b : Bool) (s : State),
    (∀ h : k < 16, ∃ t, setKey k b s = .next t ∧ Frame (fun p => p = .keys) s t ∧ t.pressed ⟨k, h⟩ = b ∧
      ∀ j : Key, j.val ≠ k → t.pressed j = s.pressed j) ∧
    (16 ≤ k → setKey k b s = .refused (.noSuchKeySlot k))

/-- loadProgram (20_memory.md R84, decisions D22 and D23): an image that fits is copied to its addresses and retained in Rom,
nothing else changed; one that does not is answered RomTooLarge with nothing changed. -/
def Obligations.LoadProgramCopiesOrRejects : Prop :=
  ∀ (bytes : List Byte) (base : Nat) (s : State),
    (base + bytes.length ≤ 4096 →
      ∃ t, loadProgram bytes base s = (t, .ok) ∧ t.rom = ⟨bytes, base⟩ ∧
        (∀ (k : Nat) (h : k < bytes.length), t.mem.get (base + k) = bytes[k]) ∧
        Frame (fun p => p = .rom ∨ ∃ k, k < bytes.length ∧ p = .mem (base + k)) s t) ∧
    (4096 < base + bytes.length → loadProgram bytes base s = (s, .romTooLarge))

/-- reset (70_reset_and_hazards.md R360, 10_state.md R55, 20_memory.md R83; decisions D9, D23): from any state whose Rom fits,
memory is FONT, overlaid by Rom, and zeros, whatever FONT the machine was constructed with; every other part has its reset value;
Rom, FONT and STACK_DEPTH are kept. The model's own fields `emitted` and `draws` are kept (log entries 4 and 5). -/
def Obligations.ResetReinitialises : Prop :=
  ∀ s : State, s.rom.base + s.rom.bytes.length ≤ memSize →
    let t := resetOp s
    (∀ a, t.mem.get a =
      if h : s.rom.base ≤ a ∧ a - s.rom.base < s.rom.bytes.length then s.rom.bytes[a - s.rom.base]'h.2
      else if h : a < 80 then s.font[a] else 0) ∧
    (∀ r, t.reg r = 0) ∧ t.opc = 0 ∧ t.pc = 0x200 ∧ t.i = 0 ∧ t.dt = 0 ∧ t.st = 0 ∧ t.stack = [] ∧
    (∀ k, t.pressed k = false) ∧ (∀ x y, Framebuffer.pixel t.fb x y = false) ∧
    t.run = .stopped ∧ t.fault = none ∧ t.rom = s.rom ∧ t.font = s.font ∧ t.stackDepth = s.stackDepth ∧
    t.emitted = s.emitted ∧ t.draws = s.draws

/-- The construction state (70_reset_and_hazards.md R362, decision D18) of any FONT and any STACK_DEPTH is the one reset gives with
the empty image: reset leaves it as it is; and after loadProgram on it a reset changes nothing, since the bytes are already there
(R365). `State.reset` is the one for the defaults (log entries 7 and 8). -/
def Obligations.ResetAfterLoadChangesNothing : Prop :=
  State.constructed defaultFont defaultStackDepth = State.reset ∧
  ∀ (font : Vector Byte 80) (depth : Nat),
    resetOp (State.constructed font depth) = State.constructed font depth ∧
    ∀ (bytes : List Byte) (base : Nat) (t : State),
      loadProgram bytes base (State.constructed font depth) = (t, .ok) → resetOp t = t

/-- FONT and STACK_DEPTH (00_scope.md R7, 70_reset_and_hazards.md R360, R362) are fixed at construction: no host operation, be it
reset, and no instruction changes either. The machine of `State.reset` has the depth of decision D11 (log entry 8). -/
def Obligations.ParametersNeverChange : Prop :=
  State.reset.stackDepth = 16 ∧
  (∀ (q : Nat) (c : HostCall) (s t : State), c.apply q s = .next t → t.font = s.font ∧ t.stackDepth = s.stackDepth) ∧
  ∀ (ins : Instr) (s t : State), exec ins s = .next t → t.font = s.font ∧ t.stackDepth = s.stackDepth

/-! ## The invariant -/

/-- The reset state meets the invariant, and so does the construction state of any FONT and any STACK_DEPTH of at least 1. -/
def Obligations.ResetMeetsInvariant : Prop :=
  MachineInv State.reset ∧
  ∀ (font : Vector Byte 80) (depth : Nat), 1 ≤ depth → MachineInv (State.constructed font depth)

/-- Every step keeps the invariant, from every state that meets it: memory in canonical form, PC <= 0x10FE (10_state.md R35),
I <= 0xFFF (R36), at most STACK_DEPTH return addresses (R40), each at most 0x1000 (41_control_flow.md R174), STACK_DEPTH at least 1
(00_scope.md R7), a fault record exactly when Faulted and of its shape (10_state.md R47, R48), Rom fitting memory. -/
def Obligations.StepKeepsInvariant : Prop :=
  ∀ s t : State, MachineInv s → step s = .next t → MachineInv t

/-- Every host operation keeps the invariant, whatever the quota, and so does every finite run of them. A run with a refused call
has no last state, by the model's own choice (log entry 30), and the statement says nothing of it. -/
def Obligations.HostRunsKeepInvariant : Prop :=
  ∀ (q : Nat) (cs : List HostCall) (s t : State), MachineInv s → applyCalls q cs s = .next t → MachineInv t
end

