-- ==== Sys2Proof/Laws/Decoding.lean ====
section
/-! SUPPORT. The opcode table: no two rows overlap, so a word that some row accepts is decoded by that row; and the fields of
a word put together from fields. -/

namespace Sys2Proof

/-- The rows differ in a bit that both masks fix (30_encoding.md R106). -/
def Row.apart (r q : Row) : Bool := (r.pattern ^^^ q.pattern) &&& (r.mask &&& q.mask) != 0

theorem opcodeTable_apart : opcodeTable.Pairwise fun r q => r.apart q = true := by decide

theorem opcodeTable_length : opcodeTable.length = 34 := rfl

/-- Rows that lie apart accept no word in common. -/
theorem Row.apart_accepts {r q : Row} (h : r.apart q = true) {op : Word} (hr : r.accepts op = true) :
    q.accepts op = false := by
  by_contra hq
  simp only [Bool.not_eq_false, Row.accepts, beq_iff_eq] at hr hq
  rw [Row.apart, ← hr, ← hq, bne_iff_ne] at h
  refine h (BitVec.eq_of_getLsbD_eq fun k hk => ?_)
  simp only [BitVec.getLsbD_and, BitVec.getLsbD_xor]
  cases op.getLsbD k <;> cases r.mask.getLsbD k <;> cases q.mask.getLsbD k <;> simp

/-- A find over rows that lie apart gives any row that accepts. -/
theorem find_of_apart {rows : List Row} (ha : rows.Pairwise fun r q => r.apart q = true) {r : Row}
    (hm : r ∈ rows) {op : Word} (hr : r.accepts op = true) :
    rows.find? (fun q => q.accepts op) = some r := by
  induction rows with
  | nil => simp at hm
  | cons q rows ih =>
    rw [List.pairwise_cons] at ha
    rcases List.mem_cons.1 hm with rfl | hm
    · simp [hr]
    · have hq : q.accepts op = false := by
        by_contra hq
        have := Row.apart_accepts (ha.1 r hm) (by simpa using hq)
        simp [hr] at this
      simp [hq, ih ha.2 hm]

/-- The word is decoded by any row of the table that accepts it. -/
theorem decode_of_row {r : Row} (hm : r ∈ opcodeTable) {op : Word} (hr : r.accepts op = true) :
    decode op = .ok (r.build op) := by
  rw [decode, find_of_apart opcodeTable_apart hm hr]

/-- All that `decode` can answer. -/
theorem decode_cases (op : Word) :
    (∃ r ∈ opcodeTable, r.accepts op = true ∧ decode op = .ok (r.build op)) ∨
    ((∀ r ∈ opcodeTable, r.accepts op = false) ∧ decode op = .error .unknownOpcode) := by
  rw [decode]
  split
  · next r hr => exact .inl ⟨r, List.mem_of_find?_eq_some hr, by simpa using List.find?_some hr, rfl⟩
  · next hn => exact .inr ⟨by simpa using List.find?_eq_none.1 hn, rfl⟩

/-! ## Bits of the layouts -/

theorem word_bit {n m : Nat} (a : BitVec n) (b : BitVec m) (k : Nat) :
    (a ++ b).getLsbD k = if k < m then b.getLsbD k else a.getLsbD (k - m) :=
  BitVec.getLsbD_append

theorem layoutAddr_bit (o : BitVec 4) (a : Addr12) (k : Nat) :
    (layoutAddr o a).getLsbD k = if k < 12 then a.getLsbD k else o.getLsbD (k - 12) :=
  word_bit ..

theorem layoutImm_bit (o : BitVec 4) (x : Reg) (b : Byte) (k : Nat) :
    (layoutImm o x b).getLsbD k =
      if k < 8 then b.getLsbD k else if k < 12 then (regBits x).getLsbD (k - 8) else o.getLsbD (k - 12) := by
  refine (word_bit (o ++ regBits x) b k).trans ?_
  rw [word_bit]
  have e : k - 8 - 4 = k - 12 := by omega
  have l : k - 8 < 4 ↔ k < 12 := by omega
  simp only [e, l]

theorem layoutXY_bit (o : BitVec 4) (x y : Reg) (n : BitVec 4) (k : Nat) :
    (layoutXY o x y n).getLsbD k =
      if k < 4 then n.getLsbD k else if k < 8 then (regBits y).getLsbD (k - 4)
      else if k < 12 then (regBits x).getLsbD (k - 8) else o.getLsbD (k - 12) := by
  refine (word_bit (o ++ regBits x ++ regBits y) n k).trans ?_
  rw [word_bit, word_bit]
  have e1 : k - 4 - 4 = k - 8 := by omega
  have e2 : k - 8 - 4 = k - 12 := by omega
  have l1 : k - 4 < 4 ↔ k < 8 := by omega
  have l2 : k - 8 < 4 ↔ k < 12 := by omega
  simp only [e1, e2, l1, l2]

/-! ## The fields of the layouts (30_encoding.md R101) -/

theorem extract_eq {m : Nat} (op : Word) (lo : Nat) (b : BitVec m)
    (h : ∀ k, k < m → op.getLsbD (lo + k) = b.getLsbD k) : op.extractLsb' lo m = b := by
  apply BitVec.eq_of_getLsbD_eq
  intro k hk
  rw [BitVec.getLsbD_extractLsb', h k hk]
  simp [hk]

@[simp] theorem fieldNNN_layoutAddr (o : BitVec 4) (a : Addr12) : fieldNNN (layoutAddr o a) = a :=
  extract_eq _ _ _ fun k hk => by simp [layoutAddr_bit, hk]

@[simp] theorem fieldX_layoutImm (o : BitVec 4) (x : Reg) (b : Byte) : fieldX (layoutImm o x b) = x :=
  congrArg BitVec.toFin (extract_eq _ _ (regBits x) fun k hk => by
    have h1 : 8 + k < 12 := by omega
    simp [layoutImm_bit, h1])

@[simp] theorem fieldNN_layoutImm (o : BitVec 4) (x : Reg) (b : Byte) : fieldNN (layoutImm o x b) = b :=
  extract_eq _ _ _ fun k hk => by simp [layoutImm_bit, hk]

@[simp] theorem fieldX_layoutXY (o : BitVec 4) (x y : Reg) (n : BitVec 4) : fieldX (layoutXY o x y n) = x :=
  congrArg BitVec.toFin (extract_eq _ _ (regBits x) fun k hk => by
    have h1 : 8 + k < 12 := by omega
    have h2 : ¬ (8 + k < 4) := by omega
    simp [layoutXY_bit, h1, h2])

@[simp] theorem fieldY_layoutXY (o : BitVec 4) (x y : Reg) (n : BitVec 4) : fieldY (layoutXY o x y n) = y :=
  congrArg BitVec.toFin (extract_eq _ _ (regBits y) fun k hk => by
    have h1 : 4 + k < 8 := by omega
    simp [layoutXY_bit, h1])

@[simp] theorem fieldN_layoutXY (o : BitVec 4) (x y : Reg) (n : BitVec 4) : fieldN (layoutXY o x y n) = n :=
  extract_eq _ _ _ fun k hk => by simp [layoutXY_bit, hk]

/-! ## A word put together from its fields -/

/-- The top nibble of a word, its family (30_encoding.md R101). -/
theorem layoutAddr_fields (op : Word) : layoutAddr (op.extractLsb' 12 4) (fieldNNN op) = op := by
  apply BitVec.eq_of_getLsbD_eq
  intro k hk
  rw [layoutAddr_bit, fieldNNN, BitVec.getLsbD_extractLsb', BitVec.getLsbD_extractLsb']
  by_cases h : k < 12
  · simp [h]
  · have h1 : k - 12 < 4 := by omega
    have h2 : 12 + (k - 12) = k := by omega
    simp [h, h1, h2]

theorem regBits_fieldX (op : Word) : regBits (fieldX op) = op.extractLsb' 8 4 := rfl

theorem regBits_fieldY (op : Word) : regBits (fieldY op) = op.extractLsb' 4 4 := rfl

theorem layoutImm_fields (op : Word) : layoutImm (op.extractLsb' 12 4) (fieldX op) (fieldNN op) = op := by
  apply BitVec.eq_of_getLsbD_eq
  intro k hk
  rw [layoutImm_bit, regBits_fieldX, fieldNN]
  simp only [BitVec.getLsbD_extractLsb']
  by_cases h : k < 8
  · simp [h]
  · by_cases h' : k < 12
    · have h1 : k - 8 < 4 := by omega
      have h2 : 8 + (k - 8) = k := by omega
      simp [h, h', h1, h2]
    · have h1 : k - 12 < 4 := by omega
      have h2 : 12 + (k - 12) = k := by omega
      simp [h, h', h1, h2]

theorem layoutXY_fields (op : Word) :
    layoutXY (op.extractLsb' 12 4) (fieldX op) (fieldY op) (fieldN op) = op := by
  apply BitVec.eq_of_getLsbD_eq
  intro k hk
  rw [layoutXY_bit, regBits_fieldX, regBits_fieldY, fieldN]
  simp only [BitVec.getLsbD_extractLsb']
  by_cases h0 : k < 4
  · simp [h0]
  · by_cases h : k < 8
    · have h1 : k - 4 < 4 := by omega
      have h2 : 4 + (k - 4) = k := by omega
      simp [h0, h, h1, h2]
    · by_cases h' : k < 12
      · have h1 : k - 8 < 4 := by omega
        have h2 : 8 + (k - 8) = k := by omega
        simp [h0, h, h', h1, h2]
      · have h1 : k - 12 < 4 := by omega
        have h2 : 12 + (k - 12) = k := by omega
        simp [h0, h, h', h1, h2]

/-! ## The masks of the table on the layouts -/

@[simp] theorem layoutAddr_family (o : BitVec 4) (a : Addr12) :
    layoutAddr o a &&& 0xF000#16 = layoutAddr o 0 := by
  apply BitVec.eq_of_getLsbD_eq
  intro k hk
  rw [BitVec.getLsbD_and, layoutAddr_bit, layoutAddr_bit]
  interval_cases k <;> simp

@[simp] theorem layoutImm_family (o : BitVec 4) (x : Reg) (b : Byte) :
    layoutImm o x b &&& 0xF000#16 = layoutImm o 0 0 := by
  apply BitVec.eq_of_getLsbD_eq
  intro k hk
  rw [BitVec.getLsbD_and, layoutImm_bit, layoutImm_bit]
  interval_cases k <;> simp [regBits]

@[simp] theorem layoutImm_sub (o : BitVec 4) (x : Reg) (b : Byte) :
    layoutImm o x b &&& 0xF0FF#16 = layoutImm o 0 b := by
  apply BitVec.eq_of_getLsbD_eq
  intro k hk
  rw [BitVec.getLsbD_and, layoutImm_bit, layoutImm_bit]
  interval_cases k <;> simp [regBits]

@[simp] theorem layoutXY_family (o : BitVec 4) (x y : Reg) (n : BitVec 4) :
    layoutXY o x y n &&& 0xF000#16 = layoutXY o 0 0 0 := by
  apply BitVec.eq_of_getLsbD_eq
  intro k hk
  rw [BitVec.getLsbD_and, layoutXY_bit, layoutXY_bit]
  interval_cases k <;> simp [regBits]

@[simp] theorem layoutXY_sub (o : BitVec 4) (x y : Reg) (n : BitVec 4) :
    layoutXY o x y n &&& 0xF00F#16 = layoutXY o 0 0 n := by
  apply BitVec.eq_of_getLsbD_eq
  intro k hk
  rw [BitVec.getLsbD_and, layoutXY_bit, layoutXY_bit]
  interval_cases k <;> simp [regBits]

/-- A word is the concatenation of its bytes. -/
theorem wordOfBytes_bytes (op : Word) : wordOfBytes (highByte op) (lowByte op) = op := by
  apply BitVec.eq_of_getLsbD_eq
  intro k hk
  refine (word_bit (highByte op) (lowByte op) k).trans ?_
  rw [highByte, lowByte, BitVec.getLsbD_extractLsb', BitVec.getLsbD_extractLsb']
  by_cases h : k < 8
  · simp [h]
  · have h2 : k - 8 < 8 := by omega
    have h3 : 8 + (k - 8) = k := by omega
    simp [h, h2, h3]

theorem highByte_wordOfBytes (hi lo : Byte) : highByte (wordOfBytes hi lo) = hi :=
  extract_eq _ _ _ fun k _ => by
    refine (word_bit hi lo (8 + k)).trans ?_
    simp

theorem lowByte_wordOfBytes (hi lo : Byte) : lowByte (wordOfBytes hi lo) = lo :=
  extract_eq _ _ _ fun k hk => by
    refine (word_bit hi lo (0 + k)).trans ?_
    simp [hk]

end Sys2Proof
end

