-- ==== Sys2Proof/Laws/State.lean ====
section
/-! SUPPORT. What each named update of the state does to each field, one lemma per field, so that no proof unfolds a record
update. -/

namespace Sys2Proof.Machine

/-! ## setReg -/

@[simp] theorem State.setReg_mem (s : State) (r : Reg) (b : Byte) : (s.setReg r b).mem = s.mem := rfl

@[simp] theorem State.setReg_v (s : State) (r : Reg) (b : Byte) : (s.setReg r b).v = s.v.set r b := rfl

@[simp] theorem State.setReg_opc (s : State) (r : Reg) (b : Byte) : (s.setReg r b).opc = s.opc := rfl

@[simp] theorem State.setReg_pc (s : State) (r : Reg) (b : Byte) : (s.setReg r b).pc = s.pc := rfl

@[simp] theorem State.setReg_i (s : State) (r : Reg) (b : Byte) : (s.setReg r b).i = s.i := rfl

@[simp] theorem State.setReg_dt (s : State) (r : Reg) (b : Byte) : (s.setReg r b).dt = s.dt := rfl

@[simp] theorem State.setReg_st (s : State) (r : Reg) (b : Byte) : (s.setReg r b).st = s.st := rfl

@[simp] theorem State.setReg_stack (s : State) (r : Reg) (b : Byte) : (s.setReg r b).stack = s.stack := rfl

@[simp] theorem State.setReg_keys (s : State) (r : Reg) (b : Byte) : (s.setReg r b).keys = s.keys := rfl

@[simp] theorem State.setReg_fb (s : State) (r : Reg) (b : Byte) : (s.setReg r b).fb = s.fb := rfl

@[simp] theorem State.setReg_run (s : State) (r : Reg) (b : Byte) : (s.setReg r b).run = s.run := rfl

@[simp] theorem State.setReg_fault (s : State) (r : Reg) (b : Byte) : (s.setReg r b).fault = s.fault := rfl

@[simp] theorem State.setReg_rom (s : State) (r : Reg) (b : Byte) : (s.setReg r b).rom = s.rom := rfl

@[simp] theorem State.setReg_font (s : State) (r : Reg) (b : Byte) : (s.setReg r b).font = s.font := rfl

@[simp] theorem State.setReg_stackDepth (s : State) (r : Reg) (b : Byte) : (s.setReg r b).stackDepth = s.stackDepth := rfl

@[simp] theorem State.setReg_emitted (s : State) (r : Reg) (b : Byte) : (s.setReg r b).emitted = s.emitted := rfl

@[simp] theorem State.setReg_draws (s : State) (r : Reg) (b : Byte) : (s.setReg r b).draws = s.draws := rfl

@[simp] theorem State.setReg_dataAddress (s : State) (r : Reg) (b : Byte) : (s.setReg r b).dataAddress = s.dataAddress := rfl

@[simp] theorem State.setReg_pressed (s : State) (r : Reg) (b : Byte) (k : Key) : (s.setReg r b).pressed k = s.pressed k := rfl

/-! ## advance -/

@[simp] theorem State.advance_mem (s : State) (op : Word) : (s.advance op).mem = s.mem := rfl

@[simp] theorem State.advance_v (s : State) (op : Word) : (s.advance op).v = s.v := rfl

@[simp] theorem State.advance_opc (s : State) (op : Word) : (s.advance op).opc = op := rfl

@[simp] theorem State.advance_pc (s : State) (op : Word) : (s.advance op).pc = s.pc + 2 := rfl

@[simp] theorem State.advance_i (s : State) (op : Word) : (s.advance op).i = s.i := rfl

@[simp] theorem State.advance_dt (s : State) (op : Word) : (s.advance op).dt = s.dt := rfl

@[simp] theorem State.advance_st (s : State) (op : Word) : (s.advance op).st = s.st := rfl

@[simp] theorem State.advance_stack (s : State) (op : Word) : (s.advance op).stack = s.stack := rfl

@[simp] theorem State.advance_keys (s : State) (op : Word) : (s.advance op).keys = s.keys := rfl

@[simp] theorem State.advance_fb (s : State) (op : Word) : (s.advance op).fb = s.fb := rfl

@[simp] theorem State.advance_run (s : State) (op : Word) : (s.advance op).run = s.run := rfl

@[simp] theorem State.advance_fault (s : State) (op : Word) : (s.advance op).fault = s.fault := rfl

@[simp] theorem State.advance_rom (s : State) (op : Word) : (s.advance op).rom = s.rom := rfl

@[simp] theorem State.advance_font (s : State) (op : Word) : (s.advance op).font = s.font := rfl

@[simp] theorem State.advance_stackDepth (s : State) (op : Word) : (s.advance op).stackDepth = s.stackDepth := rfl

@[simp] theorem State.advance_emitted (s : State) (op : Word) : (s.advance op).emitted = s.emitted := rfl

@[simp] theorem State.advance_draws (s : State) (op : Word) : (s.advance op).draws = s.draws := rfl

@[simp] theorem State.advance_reg (s : State) (op : Word) (r : Reg) : (s.advance op).reg r = s.reg r := rfl

@[simp] theorem State.advance_dataAddress (s : State) (op : Word) : (s.advance op).dataAddress = s.dataAddress := rfl

@[simp] theorem State.advance_pressed (s : State) (op : Word) (k : Key) : (s.advance op).pressed k = s.pressed k := rfl

/-! ## jump -/

@[simp] theorem State.jump_mem (s : State) (w : Word) : (s.jump w).mem = s.mem := rfl

@[simp] theorem State.jump_v (s : State) (w : Word) : (s.jump w).v = s.v := rfl

@[simp] theorem State.jump_opc (s : State) (w : Word) : (s.jump w).opc = s.opc := rfl

@[simp] theorem State.jump_pc (s : State) (w : Word) : (s.jump w).pc = w := rfl

@[simp] theorem State.jump_i (s : State) (w : Word) : (s.jump w).i = s.i := rfl

@[simp] theorem State.jump_dt (s : State) (w : Word) : (s.jump w).dt = s.dt := rfl

@[simp] theorem State.jump_st (s : State) (w : Word) : (s.jump w).st = s.st := rfl

@[simp] theorem State.jump_stack (s : State) (w : Word) : (s.jump w).stack = s.stack := rfl

@[simp] theorem State.jump_keys (s : State) (w : Word) : (s.jump w).keys = s.keys := rfl

@[simp] theorem State.jump_fb (s : State) (w : Word) : (s.jump w).fb = s.fb := rfl

@[simp] theorem State.jump_run (s : State) (w : Word) : (s.jump w).run = s.run := rfl

@[simp] theorem State.jump_fault (s : State) (w : Word) : (s.jump w).fault = s.fault := rfl

@[simp] theorem State.jump_rom (s : State) (w : Word) : (s.jump w).rom = s.rom := rfl

@[simp] theorem State.jump_font (s : State) (w : Word) : (s.jump w).font = s.font := rfl

@[simp] theorem State.jump_stackDepth (s : State) (w : Word) : (s.jump w).stackDepth = s.stackDepth := rfl

@[simp] theorem State.jump_emitted (s : State) (w : Word) : (s.jump w).emitted = s.emitted := rfl

@[simp] theorem State.jump_draws (s : State) (w : Word) : (s.jump w).draws = s.draws := rfl

@[simp] theorem State.jump_reg (s : State) (w : Word) (r : Reg) : (s.jump w).reg r = s.reg r := rfl

@[simp] theorem State.jump_dataAddress (s : State) (w : Word) : (s.jump w).dataAddress = s.dataAddress := rfl

@[simp] theorem State.jump_pressed (s : State) (w : Word) (k : Key) : (s.jump w).pressed k = s.pressed k := rfl

/-! ## rewind -/

@[simp] theorem State.rewind_mem (s : State) : (s.rewind).mem = s.mem := rfl

@[simp] theorem State.rewind_v (s : State) : (s.rewind).v = s.v := rfl

@[simp] theorem State.rewind_opc (s : State) : (s.rewind).opc = s.opc := rfl

@[simp] theorem State.rewind_pc (s : State) : (s.rewind).pc = s.pc - 2 := rfl

@[simp] theorem State.rewind_i (s : State) : (s.rewind).i = s.i := rfl

@[simp] theorem State.rewind_dt (s : State) : (s.rewind).dt = s.dt := rfl

@[simp] theorem State.rewind_st (s : State) : (s.rewind).st = s.st := rfl

@[simp] theorem State.rewind_stack (s : State) : (s.rewind).stack = s.stack := rfl

@[simp] theorem State.rewind_keys (s : State) : (s.rewind).keys = s.keys := rfl

@[simp] theorem State.rewind_fb (s : State) : (s.rewind).fb = s.fb := rfl

@[simp] theorem State.rewind_run (s : State) : (s.rewind).run = s.run := rfl

@[simp] theorem State.rewind_fault (s : State) : (s.rewind).fault = s.fault := rfl

@[simp] theorem State.rewind_rom (s : State) : (s.rewind).rom = s.rom := rfl

@[simp] theorem State.rewind_font (s : State) : (s.rewind).font = s.font := rfl

@[simp] theorem State.rewind_stackDepth (s : State) : (s.rewind).stackDepth = s.stackDepth := rfl

@[simp] theorem State.rewind_emitted (s : State) : (s.rewind).emitted = s.emitted := rfl

@[simp] theorem State.rewind_draws (s : State) : (s.rewind).draws = s.draws := rfl

@[simp] theorem State.rewind_reg (s : State) (r : Reg) : (s.rewind).reg r = s.reg r := rfl

@[simp] theorem State.rewind_dataAddress (s : State) : (s.rewind).dataAddress = s.dataAddress := rfl

@[simp] theorem State.rewind_pressed (s : State) (k : Key) : (s.rewind).pressed k = s.pressed k := rfl

/-! ## emit -/

@[simp] theorem State.emit_mem (s : State) (e : Event) : (s.emit e).mem = s.mem := rfl

@[simp] theorem State.emit_v (s : State) (e : Event) : (s.emit e).v = s.v := rfl

@[simp] theorem State.emit_opc (s : State) (e : Event) : (s.emit e).opc = s.opc := rfl

@[simp] theorem State.emit_pc (s : State) (e : Event) : (s.emit e).pc = s.pc := rfl

@[simp] theorem State.emit_i (s : State) (e : Event) : (s.emit e).i = s.i := rfl

@[simp] theorem State.emit_dt (s : State) (e : Event) : (s.emit e).dt = s.dt := rfl

@[simp] theorem State.emit_st (s : State) (e : Event) : (s.emit e).st = s.st := rfl

@[simp] theorem State.emit_stack (s : State) (e : Event) : (s.emit e).stack = s.stack := rfl

@[simp] theorem State.emit_keys (s : State) (e : Event) : (s.emit e).keys = s.keys := rfl

@[simp] theorem State.emit_fb (s : State) (e : Event) : (s.emit e).fb = s.fb := rfl

@[simp] theorem State.emit_run (s : State) (e : Event) : (s.emit e).run = s.run := rfl

@[simp] theorem State.emit_fault (s : State) (e : Event) : (s.emit e).fault = s.fault := rfl

@[simp] theorem State.emit_rom (s : State) (e : Event) : (s.emit e).rom = s.rom := rfl

@[simp] theorem State.emit_font (s : State) (e : Event) : (s.emit e).font = s.font := rfl

@[simp] theorem State.emit_stackDepth (s : State) (e : Event) : (s.emit e).stackDepth = s.stackDepth := rfl

@[simp] theorem State.emit_emitted (s : State) (e : Event) : (s.emit e).emitted = s.emitted ++ [e] := rfl

@[simp] theorem State.emit_draws (s : State) (e : Event) : (s.emit e).draws = s.draws := rfl

@[simp] theorem State.emit_reg (s : State) (e : Event) (r : Reg) : (s.emit e).reg r = s.reg r := rfl

@[simp] theorem State.emit_dataAddress (s : State) (e : Event) : (s.emit e).dataAddress = s.dataAddress := rfl

@[simp] theorem State.emit_pressed (s : State) (e : Event) (k : Key) : (s.emit e).pressed k = s.pressed k := rfl

/-! ## drawn -/

@[simp] theorem State.drawn_mem (s : State) : (s.drawn).mem = s.mem := rfl

@[simp] theorem State.drawn_v (s : State) : (s.drawn).v = s.v := rfl

@[simp] theorem State.drawn_opc (s : State) : (s.drawn).opc = s.opc := rfl

@[simp] theorem State.drawn_pc (s : State) : (s.drawn).pc = s.pc := rfl

@[simp] theorem State.drawn_i (s : State) : (s.drawn).i = s.i := rfl

@[simp] theorem State.drawn_dt (s : State) : (s.drawn).dt = s.dt := rfl

@[simp] theorem State.drawn_st (s : State) : (s.drawn).st = s.st := rfl

@[simp] theorem State.drawn_stack (s : State) : (s.drawn).stack = s.stack := rfl

@[simp] theorem State.drawn_keys (s : State) : (s.drawn).keys = s.keys := rfl

@[simp] theorem State.drawn_fb (s : State) : (s.drawn).fb = s.fb := rfl

@[simp] theorem State.drawn_run (s : State) : (s.drawn).run = s.run := rfl

@[simp] theorem State.drawn_fault (s : State) : (s.drawn).fault = s.fault := rfl

@[simp] theorem State.drawn_rom (s : State) : (s.drawn).rom = s.rom := rfl

@[simp] theorem State.drawn_font (s : State) : (s.drawn).font = s.font := rfl

@[simp] theorem State.drawn_stackDepth (s : State) : (s.drawn).stackDepth = s.stackDepth := rfl

@[simp] theorem State.drawn_emitted (s : State) : (s.drawn).emitted = s.emitted := rfl

@[simp] theorem State.drawn_draws (s : State) : (s.drawn).draws = s.draws + 1 := rfl

@[simp] theorem State.drawn_reg (s : State) (r : Reg) : (s.drawn).reg r = s.reg r := rfl

@[simp] theorem State.drawn_dataAddress (s : State) : (s.drawn).dataAddress = s.dataAddress := rfl

@[simp] theorem State.drawn_pressed (s : State) (k : Key) : (s.drawn).pressed k = s.pressed k := rfl

/-! ## takeFault -/

@[simp] theorem State.takeFault_mem (s : State) (op : Option Word) (e : Raise) : (s.takeFault op e).mem = s.mem := rfl

@[simp] theorem State.takeFault_v (s : State) (op : Option Word) (e : Raise) : (s.takeFault op e).v = s.v := rfl

@[simp] theorem State.takeFault_opc (s : State) (op : Option Word) (e : Raise) : (s.takeFault op e).opc = s.opc := rfl

@[simp] theorem State.takeFault_pc (s : State) (op : Option Word) (e : Raise) : (s.takeFault op e).pc = s.pc := rfl

@[simp] theorem State.takeFault_i (s : State) (op : Option Word) (e : Raise) : (s.takeFault op e).i = s.i := rfl

@[simp] theorem State.takeFault_dt (s : State) (op : Option Word) (e : Raise) : (s.takeFault op e).dt = s.dt := rfl

@[simp] theorem State.takeFault_st (s : State) (op : Option Word) (e : Raise) : (s.takeFault op e).st = s.st := rfl

@[simp] theorem State.takeFault_stack (s : State) (op : Option Word) (e : Raise) : (s.takeFault op e).stack = s.stack := rfl

@[simp] theorem State.takeFault_keys (s : State) (op : Option Word) (e : Raise) : (s.takeFault op e).keys = s.keys := rfl

@[simp] theorem State.takeFault_fb (s : State) (op : Option Word) (e : Raise) : (s.takeFault op e).fb = s.fb := rfl

@[simp] theorem State.takeFault_run (s : State) (op : Option Word) (e : Raise) : (s.takeFault op e).run = .faulted := rfl

@[simp] theorem State.takeFault_fault (s : State) (op : Option Word) (e : Raise) : (s.takeFault op e).fault = some ⟨e.kind, s.pc, op, e.addr⟩ := rfl

@[simp] theorem State.takeFault_rom (s : State) (op : Option Word) (e : Raise) : (s.takeFault op e).rom = s.rom := rfl

@[simp] theorem State.takeFault_font (s : State) (op : Option Word) (e : Raise) : (s.takeFault op e).font = s.font := rfl

@[simp] theorem State.takeFault_stackDepth (s : State) (op : Option Word) (e : Raise) : (s.takeFault op e).stackDepth = s.stackDepth := rfl

@[simp] theorem State.takeFault_emitted (s : State) (op : Option Word) (e : Raise) : (s.takeFault op e).emitted = s.emitted := rfl

@[simp] theorem State.takeFault_draws (s : State) (op : Option Word) (e : Raise) : (s.takeFault op e).draws = s.draws := rfl

@[simp] theorem State.takeFault_reg (s : State) (op : Option Word) (e : Raise) (r : Reg) : (s.takeFault op e).reg r = s.reg r := rfl

@[simp] theorem State.takeFault_dataAddress (s : State) (op : Option Word) (e : Raise) : (s.takeFault op e).dataAddress = s.dataAddress := rfl

@[simp] theorem State.takeFault_pressed (s : State) (op : Option Word) (e : Raise) (k : Key) : (s.takeFault op e).pressed k = s.pressed k := rfl

/-! ## skipIf -/

@[simp] theorem State.skipIf_mem (s : State) (c : Bool) : (s.skipIf c).mem = s.mem := by
  cases c <;> rfl

@[simp] theorem State.skipIf_v (s : State) (c : Bool) : (s.skipIf c).v = s.v := by
  cases c <;> rfl

@[simp] theorem State.skipIf_opc (s : State) (c : Bool) : (s.skipIf c).opc = s.opc := by
  cases c <;> rfl

@[simp] theorem State.skipIf_pc (s : State) (c : Bool) : (s.skipIf c).pc = if c then s.pc + 2 else s.pc := by
  cases c <;> rfl

@[simp] theorem State.skipIf_i (s : State) (c : Bool) : (s.skipIf c).i = s.i := by
  cases c <;> rfl

@[simp] theorem State.skipIf_dt (s : State) (c : Bool) : (s.skipIf c).dt = s.dt := by
  cases c <;> rfl

@[simp] theorem State.skipIf_st (s : State) (c : Bool) : (s.skipIf c).st = s.st := by
  cases c <;> rfl

@[simp] theorem State.skipIf_stack (s : State) (c : Bool) : (s.skipIf c).stack = s.stack := by
  cases c <;> rfl

@[simp] theorem State.skipIf_keys (s : State) (c : Bool) : (s.skipIf c).keys = s.keys := by
  cases c <;> rfl

@[simp] theorem State.skipIf_fb (s : State) (c : Bool) : (s.skipIf c).fb = s.fb := by
  cases c <;> rfl

@[simp] theorem State.skipIf_run (s : State) (c : Bool) : (s.skipIf c).run = s.run := by
  cases c <;> rfl

@[simp] theorem State.skipIf_fault (s : State) (c : Bool) : (s.skipIf c).fault = s.fault := by
  cases c <;> rfl

@[simp] theorem State.skipIf_rom (s : State) (c : Bool) : (s.skipIf c).rom = s.rom := by
  cases c <;> rfl

@[simp] theorem State.skipIf_font (s : State) (c : Bool) : (s.skipIf c).font = s.font := by
  cases c <;> rfl

@[simp] theorem State.skipIf_stackDepth (s : State) (c : Bool) : (s.skipIf c).stackDepth = s.stackDepth := by
  cases c <;> rfl

@[simp] theorem State.skipIf_emitted (s : State) (c : Bool) : (s.skipIf c).emitted = s.emitted := by
  cases c <;> rfl

@[simp] theorem State.skipIf_draws (s : State) (c : Bool) : (s.skipIf c).draws = s.draws := by
  cases c <;> rfl

@[simp] theorem State.skipIf_reg (s : State) (c : Bool) (r : Reg) : (s.skipIf c).reg r = s.reg r := by
  cases c <;> rfl

@[simp] theorem State.skipIf_dataAddress (s : State) (c : Bool) : (s.skipIf c).dataAddress = s.dataAddress := by
  cases c <;> rfl

@[simp] theorem State.skipIf_pressed (s : State) (c : Bool) (k : Key) : (s.skipIf c).pressed k = s.pressed k := by
  cases c <;> rfl

/-! ## countDelay -/

@[simp] theorem State.countDelay_mem (s : State) : (s.countDelay).mem = s.mem := by
  unfold State.countDelay; split <;> simp_all

@[simp] theorem State.countDelay_v (s : State) : (s.countDelay).v = s.v := by
  unfold State.countDelay; split <;> simp_all

@[simp] theorem State.countDelay_opc (s : State) : (s.countDelay).opc = s.opc := by
  unfold State.countDelay; split <;> simp_all

@[simp] theorem State.countDelay_pc (s : State) : (s.countDelay).pc = s.pc := by
  unfold State.countDelay; split <;> simp_all

@[simp] theorem State.countDelay_i (s : State) : (s.countDelay).i = s.i := by
  unfold State.countDelay; split <;> simp_all

@[simp] theorem State.countDelay_dt (s : State) : (s.countDelay).dt = if s.dt = 0 then 0 else s.dt - 1 := by
  unfold State.countDelay; split <;> simp_all

@[simp] theorem State.countDelay_st (s : State) : (s.countDelay).st = s.st := by
  unfold State.countDelay; split <;> simp_all

@[simp] theorem State.countDelay_stack (s : State) : (s.countDelay).stack = s.stack := by
  unfold State.countDelay; split <;> simp_all

@[simp] theorem State.countDelay_keys (s : State) : (s.countDelay).keys = s.keys := by
  unfold State.countDelay; split <;> simp_all

@[simp] theorem State.countDelay_fb (s : State) : (s.countDelay).fb = s.fb := by
  unfold State.countDelay; split <;> simp_all

@[simp] theorem State.countDelay_run (s : State) : (s.countDelay).run = s.run := by
  unfold State.countDelay; split <;> simp_all

@[simp] theorem State.countDelay_fault (s : State) : (s.countDelay).fault = s.fault := by
  unfold State.countDelay; split <;> simp_all

@[simp] theorem State.countDelay_rom (s : State) : (s.countDelay).rom = s.rom := by
  unfold State.countDelay; split <;> simp_all

@[simp] theorem State.countDelay_font (s : State) : (s.countDelay).font = s.font := by
  unfold State.countDelay; split <;> simp_all

@[simp] theorem State.countDelay_stackDepth (s : State) : (s.countDelay).stackDepth = s.stackDepth := by
  unfold State.countDelay; split <;> simp_all

@[simp] theorem State.countDelay_emitted (s : State) : (s.countDelay).emitted = s.emitted := by
  unfold State.countDelay; split <;> simp_all

@[simp] theorem State.countDelay_draws (s : State) : (s.countDelay).draws = s.draws := by
  unfold State.countDelay; split <;> simp_all

@[simp] theorem State.countDelay_reg (s : State) (r : Reg) : (s.countDelay).reg r = s.reg r := by
  unfold State.countDelay; split <;> rfl

@[simp] theorem State.countDelay_dataAddress (s : State) : (s.countDelay).dataAddress = s.dataAddress := by
  unfold State.countDelay; split <;> rfl

@[simp] theorem State.countDelay_pressed (s : State) (k : Key) : (s.countDelay).pressed k = s.pressed k := by
  unfold State.countDelay; split <;> rfl

/-! ## countSound -/

@[simp] theorem State.countSound_mem (s : State) : (s.countSound).mem = s.mem := by
  unfold State.countSound; split <;> simp_all

@[simp] theorem State.countSound_v (s : State) : (s.countSound).v = s.v := by
  unfold State.countSound; split <;> simp_all

@[simp] theorem State.countSound_opc (s : State) : (s.countSound).opc = s.opc := by
  unfold State.countSound; split <;> simp_all

@[simp] theorem State.countSound_pc (s : State) : (s.countSound).pc = s.pc := by
  unfold State.countSound; split <;> simp_all

@[simp] theorem State.countSound_i (s : State) : (s.countSound).i = s.i := by
  unfold State.countSound; split <;> simp_all

@[simp] theorem State.countSound_dt (s : State) : (s.countSound).dt = s.dt := by
  unfold State.countSound; split <;> simp_all

@[simp] theorem State.countSound_st (s : State) : (s.countSound).st = if s.st = 0 then 0 else s.st - 1 := by
  unfold State.countSound; split <;> simp_all

@[simp] theorem State.countSound_stack (s : State) : (s.countSound).stack = s.stack := by
  unfold State.countSound; split <;> simp_all

@[simp] theorem State.countSound_keys (s : State) : (s.countSound).keys = s.keys := by
  unfold State.countSound; split <;> simp_all

@[simp] theorem State.countSound_fb (s : State) : (s.countSound).fb = s.fb := by
  unfold State.countSound; split <;> simp_all

@[simp] theorem State.countSound_run (s : State) : (s.countSound).run = s.run := by
  unfold State.countSound; split <;> simp_all

@[simp] theorem State.countSound_fault (s : State) : (s.countSound).fault = s.fault := by
  unfold State.countSound; split <;> simp_all

@[simp] theorem State.countSound_rom (s : State) : (s.countSound).rom = s.rom := by
  unfold State.countSound; split <;> simp_all

@[simp] theorem State.countSound_font (s : State) : (s.countSound).font = s.font := by
  unfold State.countSound; split <;> simp_all

@[simp] theorem State.countSound_stackDepth (s : State) : (s.countSound).stackDepth = s.stackDepth := by
  unfold State.countSound; split <;> simp_all

@[simp] theorem State.countSound_emitted (s : State) : (s.countSound).emitted = if s.st = 0 then s.emitted else s.emitted ++ [.toneRequest] := by
  unfold State.countSound; split <;> simp_all

@[simp] theorem State.countSound_draws (s : State) : (s.countSound).draws = s.draws := by
  unfold State.countSound; split <;> simp_all

@[simp] theorem State.countSound_reg (s : State) (r : Reg) : (s.countSound).reg r = s.reg r := by
  unfold State.countSound; split <;> rfl

@[simp] theorem State.countSound_dataAddress (s : State) : (s.countSound).dataAddress = s.dataAddress := by
  unfold State.countSound; split <;> rfl

@[simp] theorem State.countSound_pressed (s : State) (k : Key) : (s.countSound).pressed k = s.pressed k := by
  unfold State.countSound; split <;> rfl

/-! ## Reading a register after a write -/

@[simp] theorem State.reg_setReg_same (s : State) (r : Reg) (b : Byte) : (s.setReg r b).reg r = b := by
  simp [State.reg]

theorem State.reg_setReg_ne (s : State) {r q : Reg} (b : Byte) (h : q ≠ r) : (s.setReg r b).reg q = s.reg q := by
  have hv : (r : Nat) ≠ q := fun e => h (Fin.ext e.symm)
  simp [State.reg, Vector.getElem_set_ne _ _ hv]

theorem State.reg_setReg (s : State) (r q : Reg) (b : Byte) :
    (s.setReg r b).reg q = if q = r then b else s.reg q := by
  split
  · next h => subst h; exact State.reg_setReg_same ..
  · next h => exact State.reg_setReg_ne s b h

/-- Two states with the same registers by number have the same register file. -/
theorem State.v_ext {s t : State} (h : ∀ r : Reg, s.reg r = t.reg r) : s.v = t.v :=
  Vector.ext fun k hk => h ⟨k, hk⟩

/-! ## Reading a register of the reset state -/

@[simp] theorem State.reset_reg (r : Reg) : State.reset.reg r = 0 := by
  simp [State.reg, State.reset]

@[simp] theorem State.reset_pressed (k : Key) : State.reset.pressed k = false := by
  simp [State.pressed, State.reset]

/-! ## The registers written by a block load -/

theorem State.setRegsFrom_frame (bs : List Byte) (s : State) (k : Nat) :
    ∃ v, s.setRegsFrom k bs = { s with v := v } := by
  induction bs generalizing s k with
  | nil => exact ⟨s.v, rfl⟩
  | cons b bs ih =>
    rw [State.setRegsFrom]
    split
    · obtain ⟨v, hv⟩ := ih (s.setReg _ b) (k + 1)
      exact ⟨v, hv⟩
    · exact ih s (k + 1)

theorem State.setRegsFrom_reg (bs : List Byte) (s : State) (k : Nat) (r : Reg) :
    (s.setRegsFrom k bs).reg r =
      if h : k ≤ r.val ∧ r.val - k < bs.length then bs[r.val - k]'h.2 else s.reg r := by
  induction bs generalizing s k with
  | nil => simp [State.setRegsFrom]
  | cons b bs ih =>
    rw [State.setRegsFrom, ih]
    have hr := r.isLt
    by_cases hk : k + 1 ≤ r.val
    · have e : r.val - k = (r.val - (k + 1)) + 1 := by omega
      have hne : ∀ h : k < 16, r ≠ ⟨k, h⟩ := fun h heq => by
        have := congrArg Fin.val heq; simp at this; omega
      by_cases hl : r.val - (k + 1) < bs.length
      · have h1 : k ≤ r.val ∧ r.val - k < (b :: bs).length := ⟨by omega, by simp; omega⟩
        rw [dif_pos ⟨hk, hl⟩, dif_pos h1]
        simp [e]
      · have h1 : ¬ (k ≤ r.val ∧ r.val - k < (b :: bs).length) := by simp; omega
        rw [dif_neg (by omega), dif_neg h1]
        split
        · next h => exact State.reg_setReg_ne _ _ (hne h)
        · rfl
    · rw [dif_neg (by omega)]
      by_cases he : r.val = k
      · subst he
        simp [hr]
      · have h1 : ¬ (k ≤ r.val ∧ r.val - k < (b :: bs).length) := by omega
        rw [dif_neg h1]
        split
        · next h =>
          exact State.reg_setReg_ne _ _ (fun heq => he (by have := congrArg Fin.val heq; simpa using this))
        · rfl

end Sys2Proof.Machine
end

