-- ==== Sys2Proof/Laws/Memory.lean ====
section
/-! SUPPORT. The laws of memory: a read after a write, the canonical form kept by every operation, the block accesses, and
the fetch. -/

namespace Sys2Proof.Machine

/-! ## Reading after writing -/

@[simp] theorem Memory.get_nil (a : Nat) : Memory.get [] a = unlistedByte a := rfl

theorem Memory.get_cons (c : Host.Cell) (m : Memory) (a : Nat) :
    Memory.get (c :: m) a = if c.1 = a then c.2 else Memory.get m a := rfl

theorem Memory.get_filter_same (m : Memory) (a : Nat) :
    Memory.get (m.filter (fun c => c.1 ≠ a)) a = unlistedByte a := by
  induction m with
  | nil => rfl
  | cons c m ih =>
    by_cases h : c.1 = a
    · simpa [h] using ih
    · simpa [h, Memory.get_cons] using ih

theorem Memory.get_filter_ne (m : Memory) {a d : Nat} (h : d ≠ a) :
    Memory.get (m.filter (fun c => c.1 ≠ a)) d = Memory.get m d := by
  induction m with
  | nil => rfl
  | cons c m ih =>
    by_cases hc : c.1 = a
    · have : c.1 ≠ d := fun e => h (e ▸ hc)
      simpa [hc, Memory.get_cons, this, h.symm] using ih
    · simp only [ne_eq, decide_not] at ih
      simp [hc, Memory.get_cons, ih]

theorem Memory.get_insertCell_same (m : Memory) (a : Nat) (b : Byte) (h : ∀ c ∈ m, c.1 ≠ a) :
    Memory.get (Memory.insertCell a b m) a = b := by
  induction m with
  | nil => simp [Memory.insertCell, Memory.get_cons]
  | cons c m ih =>
    rw [Memory.insertCell]
    split
    · simp [Memory.get_cons]
    · rw [Memory.get_cons, if_neg (h c (by simp)), ih fun d hd => h d (by simp [hd])]

theorem Memory.get_insertCell_ne (m : Memory) {a d : Nat} (b : Byte) (h : d ≠ a) :
    Memory.get (Memory.insertCell a b m) d = Memory.get m d := by
  induction m with
  | nil => simp [Memory.insertCell, Memory.get_cons, h.symm]
  | cons c m ih =>
    rw [Memory.insertCell]
    split
    · simp [Memory.get_cons, h.symm]
    · rw [Memory.get_cons, Memory.get_cons, ih]

/-- A read of the address just written gives the byte written. -/
theorem Memory.get_set_same (m : Memory) {a : Nat} (b : Byte) (h : a < memSize) : (m.set a b).get a = b := by
  rw [Memory.set, if_pos h]
  split
  · next hb => rw [Memory.get_filter_same, hb]
  · exact Memory.get_insertCell_same _ _ _ (by simp)

/-- A write leaves every other address alone. -/
theorem Memory.get_set_ne (m : Memory) {a d : Nat} (b : Byte) (h : d ≠ a) : (m.set a b).get d = m.get d := by
  rw [Memory.set]
  split
  · split
    · exact Memory.get_filter_ne m h
    · rw [Memory.get_insertCell_ne _ _ h, Memory.get_filter_ne m h]
  · rfl

theorem Memory.get_set (m : Memory) (a d : Nat) (b : Byte) :
    (m.set a b).get d = if d = a ∧ a < memSize then b else m.get d := by
  by_cases h : d = a
  · subst h
    by_cases hm : d < memSize
    · simp [hm, Memory.get_set_same]
    · simp [hm, Memory.set]
  · simp [h, Memory.get_set_ne]

/-- A block copied within the address space reads back byte by byte, and every other address is left alone. -/
theorem Memory.get_load (bs : List Byte) (m : Memory) (a d : Nat) (hfit : a + bs.length ≤ memSize) :
    (m.load a bs).get d = if h : a ≤ d ∧ d - a < bs.length then bs[d - a]'h.2 else m.get d := by
  induction bs generalizing m a with
  | nil => simp [Memory.load]
  | cons b bs ih =>
    simp only [List.length_cons] at hfit
    rw [Memory.load, ih _ _ (by omega)]
    by_cases h : a + 1 ≤ d ∧ d - (a + 1) < bs.length
    · have h1 : a ≤ d ∧ d - a < (b :: bs).length := by simp; omega
      have e : d - a = (d - (a + 1)) + 1 := by omega
      rw [dif_pos h, dif_pos h1]
      simp [e]
    · rw [dif_neg h, Memory.get_set]
      by_cases he : d = a
      · subst he
        have : d < memSize := by omega
        simp [this]
      · have h1 : ¬ (a ≤ d ∧ d - a < (b :: bs).length) := by simp; omega
        rw [dif_neg h1, if_neg fun hx => he hx.1]

/-! ## The canonical form -/

theorem Memory.wf_nil : Memory.wf [] := ⟨List.Pairwise.nil, by simp⟩

theorem Memory.wf_filter (m : Memory) (a : Nat) (h : m.wf) : Memory.wf (m.filter (fun c => c.1 ≠ a)) :=
  ⟨h.1.filter _, fun c hc => h.2 c (List.mem_filter.1 hc).1⟩

theorem Memory.mem_insertCell (m : Memory) (a : Nat) (b : Byte) (c : Host.Cell) :
    c ∈ Memory.insertCell a b m ↔ c = (a, b) ∨ c ∈ m := by
  induction m with
  | nil => simp [Memory.insertCell]
  | cons d m ih =>
    rw [Memory.insertCell]
    split
    · simp
    · simp [ih]; tauto

theorem Memory.sorted_insertCell (m : Memory) (a : Nat) (b : Byte)
    (hs : m.Pairwise (fun c d => c.1 < d.1)) (hn : ∀ c ∈ m, c.1 ≠ a) :
    (Memory.insertCell a b m).Pairwise (fun c d => c.1 < d.1) := by
  induction m with
  | nil => simp [Memory.insertCell]
  | cons c m ih =>
    rw [List.pairwise_cons] at hs
    rw [Memory.insertCell]
    split
    · next hlt =>
      refine List.pairwise_cons.2 ⟨fun d hd => ?_, List.pairwise_cons.2 hs⟩
      rcases List.mem_cons.1 hd with rfl | hd
      · exact hlt
      · exact lt_trans hlt (hs.1 d hd)
    · next hlt =>
      refine List.pairwise_cons.2 ⟨fun d hd => ?_, ih hs.2 fun d hd => hn d (by simp [hd])⟩
      rcases (Memory.mem_insertCell m a b d).1 hd with rfl | hd
      · have := hn c (by simp)
        simp only at hlt ⊢
        omega
      · exact hs.1 d hd

/-- A write keeps the canonical form. -/
theorem Memory.wf_set (m : Memory) (a : Nat) (b : Byte) (h : m.wf) : (m.set a b).wf := by
  rw [Memory.set]
  split
  · next ha =>
    split
    · exact Memory.wf_filter m a h
    · next hb =>
      have hf := Memory.wf_filter m a h
      refine ⟨Memory.sorted_insertCell _ a b hf.1 (by simp), fun c hc => ?_⟩
      rcases (Memory.mem_insertCell _ a b c).1 hc with rfl | hc
      · exact ⟨ha, hb⟩
      · exact hf.2 c hc
  · exact h

/-- Copying a block keeps the canonical form. -/
theorem Memory.wf_load (bs : List Byte) (m : Memory) (a : Nat) (h : m.wf) : (m.load a bs).wf := by
  induction bs generalizing m a with
  | nil => exact h
  | cons b bs ih => exact ih _ _ (Memory.wf_set m a b h)

/-- An address outside the space reads as unlisted in a canonical memory. -/
theorem Memory.get_outside (m : Memory) (h : m.wf) {a : Nat} (ha : memSize ≤ a) : m.get a = unlistedByte a := by
  induction m with
  | nil => rfl
  | cons c m ih =>
    have hc := (h.2 c (by simp)).1
    rw [Memory.get_cons, if_neg (by omega)]
    exact ih ⟨(List.pairwise_cons.1 h.1).2, fun d hd => h.2 d (by simp [hd])⟩

/-- In a canonical memory the cell listed at an address is what a read of it gives. -/
theorem Memory.get_of_mem (m : Memory) (h : m.wf) (c : Host.Cell) (hc : c ∈ m) : m.get c.1 = c.2 := by
  induction m with
  | nil => simp at hc
  | cons d m ih =>
    have hp := List.pairwise_cons.1 h.1
    rw [Memory.get_cons]
    rcases List.mem_cons.1 hc with rfl | hc
    · simp
    · have := hp.1 c hc
      rw [if_neg (by omega)]
      exact ih ⟨hp.2, fun e he => h.2 e (by simp [he])⟩ hc

/-- In a canonical memory an address that no cell lists reads as unlisted. -/
theorem Memory.get_of_not_mem (m : Memory) {a : Nat} (ha : ∀ c ∈ m, c.1 ≠ a) : m.get a = unlistedByte a := by
  induction m with
  | nil => rfl
  | cons d m ih =>
    rw [Memory.get_cons, if_neg (ha d (by simp))]
    exact ih fun c hc => ha c (by simp [hc])

/-- Canonical memories that read alike are equal: equal memories are equal data. -/
theorem Memory.ext_of_wf {m n : Memory} (hm : m.wf) (hn : n.wf) (h : ∀ a, m.get a = n.get a) : m = n := by
  have sub : ∀ {p q : Memory}, p.wf → q.wf → (∀ a, p.get a = q.get a) → ∀ c ∈ p, c ∈ q := by
    intro p q hp hq hpq c hc
    have hget := Memory.get_of_mem p hp c hc
    by_contra hcon
    by_cases hex : ∃ d ∈ q, d.1 = c.1
    · obtain ⟨d, hd, hdc⟩ := hex
      have hd2 := Memory.get_of_mem q hq d hd
      rw [hdc, ← hpq, hget] at hd2
      exact hcon (Prod.ext hdc hd2.symm ▸ hd)
    · have hunl := Memory.get_of_not_mem q (a := c.1) (fun d hd e => hex ⟨d, hd, e⟩)
      rw [← hpq, hget] at hunl
      exact (hp.2 c hc).2 hunl
  have anti : ∀ c d : Host.Cell, c.1 < d.1 → d.1 < c.1 → c = d := fun c d h1 h2 => absurd h1 (by omega)
  have nodup : ∀ {p : Memory}, p.wf → p.Nodup := fun hp =>
    hp.1.imp fun hcd e => by rw [e] at hcd; exact lt_irrefl _ hcd
  exact List.Perm.eq_of_pairwise (fun c d _ _ => anti c d) hm.1 hn.1
    ((List.perm_ext_iff_of_nodup (nodup hm) (nodup hn)).2 fun c =>
      ⟨sub hm hn h c, sub hn hm (fun a => (h a).symm) c⟩)

/-! ## The access primitives -/

theorem memRead_inside (s : State) {a : Nat} (h : a < memSize) : memRead s a = .ok (s.mem.get a) := by
  rw [memRead, if_neg (by omega)]

theorem memRead_outside (s : State) {a : Nat} (h : memSize ≤ a) : memRead s a = .error (outOfRange a) := by
  rw [memRead, if_pos h]

theorem memWrite_inside (s : State) {a : Nat} (b : Byte) (h : a < memSize) :
    memWrite s a b = .ok { s with mem := s.mem.set a b } := by
  rw [memWrite, if_neg (by omega)]

theorem memWrite_outside (s : State) {a : Nat} (b : Byte) (h : memSize ≤ a) :
    memWrite s a b = .error (outOfRange a) := by
  rw [memWrite, if_pos h]

/-- A block read within the address space gives the bytes of memory in order. -/
theorem readBytes_inside (n : Nat) (s : State) (a : Nat) (h : a + n ≤ memSize) :
    readBytes s a n = .ok ((List.range n).map fun k => s.mem.get (a + k)) := by
  induction n generalizing a with
  | zero => rfl
  | succ n ih =>
    rw [readBytes, memRead_inside s (by omega), ih (a + 1) (by omega), List.range_succ_eq_map]
    simp [Function.comp_def, Nat.add_assoc, Nat.add_comm 1]

/-- A block read that leaves the address space raises at the first address outside it. -/
theorem readBytes_outside (n : Nat) (s : State) (a : Nat) (h : memSize < a + n) (hn : 0 < n) :
    readBytes s a n = .error (outOfRange (max a memSize)) := by
  induction n generalizing a with
  | zero => omega
  | succ n ih =>
    rw [readBytes]
    by_cases ha : memSize ≤ a
    · rw [memRead_outside s ha, max_eq_left ha]
    · rw [memRead_inside s (by omega)]
      have hmax : max (a + 1) memSize = max a memSize := by omega
      rw [ih (a + 1) (by omega) (by omega), hmax]

/-- A block write within the address space is the copy of the block. -/
theorem writeBytes_inside (bs : List Byte) (s : State) (a : Nat) (h : a + bs.length ≤ memSize) :
    writeBytes s a bs = .ok { s with mem := s.mem.load a bs } := by
  induction bs generalizing s a with
  | nil => rfl
  | cons b bs ih =>
    simp only [List.length_cons] at h
    rw [writeBytes, memWrite_inside s b (by omega)]
    exact ih _ _ (by omega)

/-- A block write that leaves the address space raises at the first address outside it. -/
theorem writeBytes_outside (bs : List Byte) (s : State) (a : Nat) (h : memSize < a + bs.length) (hn : bs ≠ []) :
    writeBytes s a bs = .error (outOfRange (max a memSize)) := by
  induction bs generalizing s a with
  | nil => exact absurd rfl hn
  | cons b bs ih =>
    simp only [List.length_cons] at h
    rw [writeBytes]
    by_cases ha : memSize ≤ a
    · rw [memWrite_outside s b ha, max_eq_left ha]
    · rw [memWrite_inside s b (by omega)]
      have hmax : max (a + 1) memSize = max a memSize := by omega
      cases bs with
      | nil => simp at h; omega
      | cons c cs => exact hmax ▸ ih _ (a + 1) (by omega) (by simp)

/-- A fetch within memory gives the big-endian word at PC. -/
theorem fetch_inside (s : State) (h : s.pc.toNat + 1 < memSize) :
    fetch s = .ok (wordOfBytes (s.mem.get s.pc.toNat) (s.mem.get (s.pc.toNat + 1))) := by
  rw [fetch, memRead_inside s (by omega), memRead_inside s h]

/-- A fetch that leaves memory raises at the first address outside it. -/
theorem fetch_outside (s : State) (h : memSize ≤ s.pc.toNat + 1) :
    fetch s = .error (outOfRange (max s.pc.toNat memSize)) := by
  rw [fetch]
  by_cases ha : memSize ≤ s.pc.toNat
  · rw [memRead_outside s ha, max_eq_left ha]
  · have e : s.pc.toNat + 1 = memSize := by omega
    have hm : max s.pc.toNat memSize = memSize := by omega
    rw [memRead_inside s (by omega), memRead_outside s h, hm, e]

/-! ## What a raise and a completed instruction are -/

/-- An instruction whose effect succeeds answers that state. -/
theorem perform_ok {ins : Instr} {effect : State → Except Raise State} {s t : State}
    (h : effect (s.advance (encode ins)) = .ok t) : perform ins effect s = .next t := by
  rw [perform, h]

/-- An instruction whose effect raises answers the state before the fetch, with the fault taken. -/
theorem perform_error {ins : Instr} {effect : State → Except Raise State} {s : State} {e : Raise}
    (h : effect (s.advance (encode ins)) = .error e) :
    perform ins effect s = .next (s.takeFault (some (encode ins)) e) := by
  rw [perform, h]

/-- All that `perform` can answer. -/
theorem perform_cases {ins : Instr} {effect : State → Except Raise State} {s : State}
    {o : Host.Outcome State Fault Refusal} (h : perform ins effect s = o) :
    (∃ t, effect (s.advance (encode ins)) = .ok t ∧ o = .next t) ∨
    (∃ e, effect (s.advance (encode ins)) = .error e ∧ o = .next (s.takeFault (some (encode ins)) e)) := by
  unfold perform at h
  split at h
  · next t ht => exact .inl ⟨t, ht, h.symm⟩
  · next e he => exact .inr ⟨e, he, h.symm⟩

/-! ## The call stack -/

theorem push_room (s : State) (w : Word) (h : s.stack.length ≠ s.stackDepth) :
    push s w = .ok { s with stack := s.stack ++ [w] } := by
  rw [push, if_neg h]

theorem push_full (s : State) (w : Word) (h : s.stack.length = s.stackDepth) :
    push s w = .error ⟨.stackOverflow, none⟩ := by
  rw [push, if_pos h]

theorem pop_empty (s : State) (h : s.stack = []) : pop s = .error ⟨.stackUnderflow, none⟩ := by
  simp [pop, h]

theorem pop_entry (s : State) (ws : List Word) (w : Word) (h : s.stack = ws ++ [w]) :
    pop s = .ok (w, { s with stack := ws }) := by
  simp [pop, h]

/-! ## The memory of the construction state and of reset -/

/-- Memory at construction is FONT and zeros, whatever FONT the machine has (70_reset_and_hazards.md R362). -/
theorem State.constructed_get (font : Vector Byte 80) (depth a : Nat) :
    (State.constructed font depth).mem.get a = if h : a < 80 then font[a] else 0 := by
  show (Memory.load [] 0 font.toList).get a = _
  rw [Memory.get_load _ _ _ _ (by simp [memSize])]
  by_cases h : a < 80
  · simp [h]
  · rw [dif_neg (by simp; omega), dif_neg h]
    exact List.getD_eq_default _ _ (le_of_eq_of_le (show _ = 80 by decide) (by omega))

theorem State.constructed_wf (font : Vector Byte 80) (depth : Nat) : (State.constructed font depth).mem.wf :=
  Memory.wf_load _ _ _ Memory.wf_nil

/-- `reset` leaves the construction state's memory with Rom copied over it (20_memory.md R83). -/
theorem resetOp_mem (s : State) :
    (resetOp s).mem = Memory.load (State.constructed s.font s.stackDepth).mem s.rom.base s.rom.bytes := rfl

theorem resetOp_wf (s : State) : (resetOp s).mem.wf :=
  Memory.wf_load _ _ _ (State.constructed_wf _ _)

end Sys2Proof.Machine
end

