-- ==== Sys2Proof/Laws/Engine.lean ====
section
/-! SUPPORT. What the engine and the host's operations can do, said once: a step that is Faulted, a step that is not, the three
cases of one execution, the quota loop, the timer rule, and what the block store, `setKey` and `loadProgram` leave alone. -/

namespace Sys2Proof.Machine

/-! ## One step -/

theorem step_faulted {s : State} (h : s.run = .faulted) : step s = .next s := by
  simp [step, h]

theorem step_safe {s : State} (h : s.safe) : step s = exec1 s := by
  unfold step
  cases hr : s.run <;> simp_all [State.safe]

/-- One execution ends in one of three ways: the fetch faults, the word is Unknown, or the decoded instruction runs. -/
theorem exec1_cases (s : State) :
    (∃ e, fetch s = .error e ∧ exec1 s = .next (s.takeFault none e)) ∨
    (∃ op, fetch s = .ok op ∧ (∃ e, decode op = .error e) ∧ exec1 s = .next (s.advance op)) ∨
    (∃ op ins, fetch s = .ok op ∧ decode op = .ok ins ∧ exec1 s = exec ins s) := by
  unfold exec1
  cases hf : fetch s with
  | error e => exact .inl ⟨e, rfl, rfl⟩
  | ok op =>
    cases hd : decode op with
    | error e => exact .inr (.inl ⟨op, rfl, ⟨e, hd⟩, by simp only [hd]; rfl⟩)
    | ok ins => exact .inr (.inr ⟨op, ins, rfl, hd, by simp only [hd]⟩)

/-- Where the fetch answers a word, both its bytes are in memory. -/
theorem fetch_pc {s : State} {op : Word} (h : fetch s = .ok op) : s.pc.toNat ≤ 0xFFE := by
  by_contra hc
  rw [fetch_outside s (by simp [memSize]; omega)] at h
  cases h

/-! ## The quota and the timers -/

theorem quotaLoop_faulted {n : Nat} {s : State} (h : s.run = .faulted) : quotaLoop n s = .next s := by
  cases n <;> simp [quotaLoop, h]

theorem quotaLoop_succ {n : Nat} {s t : State} (h : s.safe) (he : exec1 s = .next t) :
    quotaLoop (n + 1) s = quotaLoop n t := by
  rw [quotaLoop]
  cases hr : s.run <;> simp_all [State.safe]

theorem tickWith_faulted {q : Nat} {s : State} (h : s.run = .faulted) : tickWith q s = .next s := by
  simp [tickWith, h]

/-- The timer rule writes DT, ST and the events, and nothing else. -/
theorem countTimers_eq (s : State) :
    s.countTimers =
      { s with
        dt := if s.dt = 0 then s.dt else s.dt - 1
        st := if s.st = 0 then s.st else s.st - 1
        emitted := if s.st = 0 then s.emitted else s.emitted ++ [.toneRequest] } := by
  cases s
  simp only [State.countTimers, State.countSound, State.countDelay, State.emit]
  split <;> split <;> rfl

/-- A timer that counts is one lower, and 0 stays 0. -/
theorem countdown_toNat (b : Byte) : (if b = 0 then b else b - 1).toNat = b.toNat - 1 := by
  revert b; decide

/-! ## run and stop -/

theorem runOp_safe {s : State} (h : s.safe) : runOp s = { s with run := .running } := by
  unfold runOp
  cases hr : s.run <;> simp_all [State.safe]

theorem stopOp_safe {s : State} (h : s.safe) : stopOp s = { s with run := .stopped } := by
  unfold stopOp
  cases hr : s.run <;> simp_all [State.safe]

/-! ## The block store, and the host's writes -/

/-- A block store that succeeds writes memory only, and keeps its canonical form. -/
theorem writeBytes_next (bs : List Byte) {s t : State} {a : Nat} (h : writeBytes s a bs = .ok t) :
    ∃ m, t = { s with mem := m } ∧ (s.mem.wf → m.wf) := by
  induction bs generalizing s a with
  | nil =>
    injection h with h
    subst h
    exact ⟨_, rfl, id⟩
  | cons b bs ih =>
    unfold writeBytes at h
    by_cases hm : memSize ≤ a
    · simp only [memWrite_outside s b hm] at h
      cases h
    · simp only [memWrite_inside s b (Nat.lt_of_not_le hm)] at h
      obtain ⟨m, h1, h2⟩ := ih h
      exact ⟨m, h1, fun hw => h2 (Memory.wf_set _ _ _ hw)⟩

/-- `setKey` that is not refused writes the keypad only. -/
theorem setKey_next {k : Nat} {b : Bool} {s t : State} (h : setKey k b s = .next t) : ∃ ks, t = { s with keys := ks } := by
  unfold setKey at h
  split at h
  · injection h with h
    exact ⟨_, h.symm⟩
  · cases h

/-- `loadProgram` writes memory and Rom only, whatever it answers. -/
theorem loadProgram_state (bytes : List Byte) (base : Nat) (s : State) :
    ∃ m r, (loadProgram bytes base s).1 = { s with mem := m, rom := r } := by
  unfold loadProgram
  split
  · exact ⟨s.mem, s.rom, rfl⟩
  · exact ⟨_, _, rfl⟩

end Sys2Proof.Machine
end

