-- ==== Sys2Proof/Laws/Execution.lean ====
section
/-! SUPPORT. One lemma for each shared operation of the meanings: the flag-and-result pair, the exact arithmetic, the register
block, the keypad operand, the timers, the drawing of a sprite; and what a frame gives. -/

namespace Sys2Proof.Machine

/-! ## Exact arithmetic -/

@[simp] theorem mod256_toNat (n : Nat) : (mod256 n).toNat = n % 256 := by simp [mod256]

@[simp] theorem mod4096_toNat (n : Nat) : (mod4096 n).toNat = n % 4096 := by
  simp only [mod4096, BitVec.toNat_ofNat]
  omega

@[simp] theorem absolute_toNat (a : Addr12) : (absolute a).toNat = a.toNat := by
  have := a.isLt
  simp [absolute]
  omega

@[simp] theorem glyphAddress_toNat (b : Byte) : (glyphAddress b).toNat = b.toNat * 5 := by
  have := b.isLt
  simp [glyphAddress]
  omega

@[simp] theorem offsetTarget_toNat (s : State) (a : Addr12) :
    (s.offsetTarget a).toNat = (s.reg V0).toNat + a.toNat := by
  have h1 := a.isLt
  have h2 := (s.reg V0).isLt
  rw [State.offsetTarget, BitVec.toNat_add, absolute_toNat, BitVec.toNat_setWidth]
  omega

@[simp] theorem sumByte_toNat (a b : Byte) : (sumByte a b).toNat = (a.toNat + b.toNat) % 256 := by
  simp [sumByte]

@[simp] theorem differenceByte_toNat (a b : Byte) :
    (differenceByte a b).toNat = (a.toNat + 256 - b.toNat) % 256 := by
  simp [differenceByte]

@[simp] theorem flagByte_toNat (c : Bool) : (flagByte c).toNat = if c then 1 else 0 := by
  cases c <;> rfl

@[simp] theorem lowBitFlag_toNat (a : Byte) : (lowBitFlag a).toNat = a.toNat % 2 := by
  simp [lowBitFlag, Nat.and_one_is_mod]

theorem highBit_iff (a : Byte) : a &&& 0x80#8 ≠ 0 ↔ 128 ≤ a.toNat := by
  revert a; decide

@[simp] theorem highBitFlag_toNat (a : Byte) : (highBitFlag a).toNat = if 128 ≤ a.toNat then 1 else 0 := by
  have h := highBit_iff a
  rw [highBitFlag, flagByte_toNat]
  by_cases ha : 128 ≤ a.toNat
  · rw [if_pos ha, if_pos (by simpa using h.2 ha)]
  · rw [if_neg ha, if_neg]
    intro hc
    exact ha (h.1 (by simpa using hc))

theorem flagByte_decide_toNat (p : Prop) [Decidable p] : (flagByte (decide p)).toNat = if p then 1 else 0 := by
  by_cases h : p <;> simp [h]

@[simp] theorem carryFlag_toNat (a b : Byte) :
    (carryFlag a b).toNat = if 255 < a.toNat + b.toNat then 1 else 0 := flagByte_decide_toNat _

@[simp] theorem noBorrowFlag_toNat (a b : Byte) : (noBorrowFlag a b).toNat = if b.toNat ≤ a.toNat then 1 else 0 :=
  flagByte_decide_toNat _

@[simp] theorem indexOverflowFlag_toNat (i : Word) (b : Byte) :
    (indexOverflowFlag i b).toNat = if 0xFFF < i.toNat + b.toNat then 1 else 0 := flagByte_decide_toNat _

theorem collisionFlag_eq (hit : Bool) : collisionFlag hit = if hit then 1 else 0 := rfl

/-! ## Flag and result -/

/-- What the pair of statements leaves in each register: the flag in VF unless X = F, the result in V[x], read after the
flag. -/
theorem State.flagThenResult_reg (s : State) (x y : Reg) (flag result : Byte → Byte → Byte) (r : Reg) :
    (s.flagThenResult x y flag result).reg r =
      if r = x then
        result (if x = VF then flag (s.reg x) (s.reg y) else s.reg x)
          (if y = VF then flag (s.reg x) (s.reg y) else s.reg y)
      else if r = VF then flag (s.reg x) (s.reg y) else s.reg r := by
  simp only [State.flagThenResult, State.reg_setReg]

/-- The pair of statements writes registers only. -/
theorem State.flagThenResult_frame (s : State) (x y : Reg) (flag result : Byte → Byte → Byte) :
    ∃ v, s.flagThenResult x y flag result = { s with v := v } := ⟨_, rfl⟩

/-! ## The register block and the decimal digits -/

theorem State.regBlock_eq (s : State) (x : Reg) :
    s.regBlock x = (List.range (x.val + 1)).map fun k => if h : k < 16 then s.reg ⟨k, h⟩ else 0 := by
  have hf : (List.finRange 16).filter (fun r => r ≤ x) =
      (List.range (x.val + 1)).map fun k => if h : k < 16 then (⟨k, h⟩ : Reg) else 0 := by
    revert x; decide
  rw [State.regBlock, hf, List.map_map]
  refine List.map_congr_left fun k hk => ?_
  have : k < 16 := by have := List.mem_range.1 hk; have := x.isLt; omega
  simp [this]

@[simp] theorem State.regBlock_length (s : State) (x : Reg) : (s.regBlock x).length = x.val + 1 := by
  simp [State.regBlock_eq]

theorem State.regBlock_get (s : State) (x r : Reg) (h : r.val < (s.regBlock x).length) :
    (s.regBlock x)[r.val] = s.reg r := by
  simp [State.regBlock_eq]

@[simp] theorem State.regBlock_advance (s : State) (op : Word) (x : Reg) :
    (s.advance op).regBlock x = s.regBlock x := rfl

/-! ## The keypad -/

theorem keyOf_slot (b : Byte) (h : b.toNat < 16) : keyOf b = .ok ⟨b.toNat, h⟩ := by
  rw [keyOf, dif_pos h]

theorem keyOf_outside (b : Byte) (h : 16 ≤ b.toNat) : keyOf b = .error (outOfRange b.toNat) := by
  rw [keyOf, dif_neg (show ¬ b.toNat < 16 by omega)]

theorem State.mem_pressedKeys (s : State) (k : Key) : k ∈ s.pressedKeys ↔ s.pressed k = true := by
  simp [State.pressedKeys]

theorem State.pressedKeys_nil (s : State) (h : ∀ k, s.pressed k = false) : s.pressedKeys = [] := by
  simp [State.pressedKeys, h]

@[simp] theorem State.pressedKeys_advance (s : State) (op : Word) : (s.advance op).pressedKeys = s.pressedKeys := rfl

/-- The key selected is one of the pressed keys, whatever the draw. -/
theorem State.selectKey_mem (s : State) (k : Key) (ks : List Key) : s.selectKey k ks ∈ k :: ks := by
  cases ks with
  | nil => simp [State.selectKey]
  | cons k' ks =>
    have h : Config.keyDraw s.draws % (ks.length + 2) < (k :: k' :: ks).length := by
      simpa using Nat.mod_lt (Config.keyDraw s.draws) (Nat.succ_pos (ks.length + 1))
    rw [State.selectKey, List.getD_eq_getElem _ _ h]
    exact List.getElem_mem h

/-! ## The framebuffer -/

@[simp] theorem pixel_blank (x : Fin 64) (y : Fin 32) : Framebuffer.pixel blankFramebuffer x y = false := by
  simp [Framebuffer.pixel, blankFramebuffer]

/-- Toggling one pixel inverts it and leaves every other pixel alone. -/
theorem pixel_toggle (fb : Framebuffer) (x px : Fin 64) (y py : Fin 32) :
    Framebuffer.pixel (Framebuffer.toggle fb x y) px py =
      (Framebuffer.pixel fb px py ^^ decide (px = x ∧ py = y)) := by
  by_cases hx : px = x
  · subst hx
    by_cases hy : py = y
    · subst hy
      simp [Framebuffer.pixel, Framebuffer.toggle]
    · have : (y : Nat) ≠ py := fun e => hy (Fin.ext e.symm)
      simp [Framebuffer.pixel, Framebuffer.toggle, Vector.getElem_set_ne _ _ this, hy]
  · have : (x : Nat) ≠ px := fun e => hx (Fin.ext e.symm)
    simp [Framebuffer.pixel, Framebuffer.toggle, Vector.getElem_set_ne _ _ this, hx]

/-- Two framebuffers with the same pixels are equal. -/
theorem framebuffer_ext {f g : Framebuffer} (h : ∀ x y, Framebuffer.pixel f x y = Framebuffer.pixel g x y) : f = g :=
  Vector.ext fun i hi => Vector.ext fun j hj => h ⟨i, hi⟩ ⟨j, hj⟩

theorem wrapX_inj {n c d : Nat} (hc : c < 64) (hd : d < 64) (h : wrapX (n + c) = wrapX (n + d)) : c = d := by
  have := congrArg Fin.val h
  simp only [wrapX, Fin.ofNat] at this
  omega

theorem wrapY_inj {n r q : Nat} (hr : r < 32) (hq : q < 32) (h : wrapY (n + r) = wrapY (n + q)) : r = q := by
  have := congrArg Fin.val h
  simp only [wrapY, Fin.ofNat] at this
  omega

@[simp] theorem flip_framebuffer (d : Drawing) (x : Fin 64) (y : Fin 32) :
    (Drawing.flip d x y).1 = Framebuffer.toggle d.1 x y := rfl

@[simp] theorem flip_hit (d : Drawing) (x : Fin 64) (y : Fin 32) :
    (Drawing.flip d x y).2 = (d.2 || Framebuffer.pixel d.1 x y) := rfl

/-- Columns below n of a sprite row have a set bit on column px. -/
def columnsCover (x0 : Nat) (b : Byte) (n : Nat) (px : Fin 64) : Bool :=
  (List.range n).any fun c => spriteBit b c && decide (px = wrapX (x0 + c))

theorem columnsCover_succ (x0 : Nat) (b : Byte) (n : Nat) (px : Fin 64) :
    columnsCover x0 b (n + 1) px = (columnsCover x0 b n px || (spriteBit b n && decide (px = wrapX (x0 + n)))) := by
  simp [columnsCover, List.range_succ]

/-- No two columns of a row fall on the same pixel (R272). -/
theorem columnsCover_fresh (x0 : Nat) (b : Byte) {n : Nat} (hn : n < 8) :
    columnsCover x0 b n (wrapX (x0 + n)) = false := by
  simp only [columnsCover, List.any_eq_false, List.mem_range, Bool.and_eq_true, decide_eq_true_eq, not_and]
  intro c hc _ h
  have := wrapX_inj (by omega) (by omega) h
  omega

/-- Columns below n of a sprite row have a set bit on a pixel of row y that is on. -/
def columnsHit (fb : Framebuffer) (x0 : Nat) (y : Fin 32) (b : Byte) (n : Nat) : Bool :=
  (List.range n).any fun c => spriteBit b c && Framebuffer.pixel fb (wrapX (x0 + c)) y

/-- The first n columns of a row, drawn: each pixel of the row is inverted where a set bit falls on it, and a collision is
recorded where such a pixel was on. -/
theorem drawColumns (n : Nat) (hn : n ≤ 8) (d : Drawing) (x0 y0 : Nat) (b : Byte) :
    let e := (List.range n).foldl
      (fun d c => if spriteBit b c then Drawing.flip d (wrapX (x0 + c)) (wrapY y0) else d) d
    (∀ px py, Framebuffer.pixel e.1 px py =
      (Framebuffer.pixel d.1 px py ^^ (decide (py = wrapY y0) && columnsCover x0 b n px))) ∧
    e.2 = (d.2 || columnsHit d.1 x0 (wrapY y0) b n) := by
  induction n with
  | zero => simp [columnsCover, columnsHit]
  | succ n ih =>
    obtain ⟨ihp, ihh⟩ := ih (by omega)
    simp only [List.range_succ, List.foldl_append, List.foldl_cons, List.foldl_nil, columnsCover_succ, columnsHit,
      List.any_append, List.any_cons, List.any_nil, Bool.or_false]
    by_cases hb : spriteBit b n = true
    · simp only [hb, if_true, flip_framebuffer, flip_hit, Bool.true_and]
      refine ⟨fun px py => ?_, ?_⟩
      · rw [pixel_toggle, ihp]
        by_cases hx : px = wrapX (x0 + n)
        · subst hx
          rw [columnsCover_fresh x0 b (by omega)]
          by_cases hy : py = wrapY y0 <;> simp [hy]
        · simp [hx]
      · rw [ihh, ihp, columnsCover_fresh x0 b (by omega)]
        simp [columnsHit, Bool.or_assoc]
    · simp only [Bool.not_eq_true] at hb
      simp only [hb, Bool.false_and, Bool.or_false]
      exact ⟨ihp, ihh⟩

/-- One sprite row, drawn. -/
theorem drawRow (d : Drawing) (x0 y0 : Nat) (b : Byte) :
    (∀ px py, Framebuffer.pixel (Drawing.row d x0 y0 b).1 px py =
      (Framebuffer.pixel d.1 px py ^^ (decide (py = wrapY y0) && columnsCover x0 b 8 px))) ∧
    (Drawing.row d x0 y0 b).2 = (d.2 || columnsHit d.1 x0 (wrapY y0) b 8) :=
  drawColumns 8 le_rfl d x0 y0 b

/-- The rows of a sprite have a set bit on a pixel. -/
def rowsCover (x0 y0 : Nat) (bs : List Byte) (px : Fin 64) (py : Fin 32) : Bool :=
  (List.range bs.length).any fun r => decide (py = wrapY (y0 + r)) && columnsCover x0 (bs.getD r 0) 8 px

theorem rowsCover_cons (x0 y0 : Nat) (b : Byte) (bs : List Byte) (px : Fin 64) (py : Fin 32) :
    rowsCover x0 y0 (b :: bs) px py =
      ((decide (py = wrapY y0) && columnsCover x0 b 8 px) || rowsCover x0 (y0 + 1) bs px py) := by
  simp [rowsCover, List.range_succ_eq_map, List.any_map, Function.comp_def, Nat.add_assoc, Nat.add_comm 1]

/-- No two rows of a sprite of at most 32 rows fall on the same pixel (R272). -/
theorem rowsCover_fresh (x0 y0 : Nat) (bs : List Byte) (hl : bs.length < 32) (px : Fin 64) :
    rowsCover x0 (y0 + 1) bs px (wrapY y0) = false := by
  simp only [rowsCover, List.any_eq_false, List.mem_range, Bool.and_eq_true, decide_eq_true_eq, not_and]
  intro r hr h
  rw [Nat.add_assoc] at h
  have := wrapY_inj (n := y0) (r := 0) (q := 1 + r) (by omega) (by omega) (by simpa using h)
  omega

/-- The rows of a sprite have a set bit on a pixel that is on. -/
def rowsHit (fb : Framebuffer) (x0 y0 : Nat) (bs : List Byte) : Bool :=
  (List.range bs.length).any fun r => columnsHit fb x0 (wrapY (y0 + r)) (bs.getD r 0) 8

theorem rowsHit_cons (fb : Framebuffer) (x0 y0 : Nat) (b : Byte) (bs : List Byte) :
    rowsHit fb x0 y0 (b :: bs) = (columnsHit fb x0 (wrapY y0) b 8 || rowsHit fb x0 (y0 + 1) bs) := by
  simp [rowsHit, List.range_succ_eq_map, List.any_map, Function.comp_def, Nat.add_assoc, Nat.add_comm 1]

/-- A sprite of fewer than 33 rows, drawn: each pixel is inverted where a set bit falls on it, and a collision is recorded
where such a pixel was on BEFORE the draw, since no pixel is touched twice (R272). -/
theorem drawRows (bs : List Byte) (hl : bs.length ≤ 32) (d : Drawing) (x0 y0 : Nat) :
    (∀ px py, Framebuffer.pixel (Drawing.rows x0 y0 bs d).1 px py =
      (Framebuffer.pixel d.1 px py ^^ rowsCover x0 y0 bs px py)) ∧
    (Drawing.rows x0 y0 bs d).2 = (d.2 || rowsHit d.1 x0 y0 bs) := by
  induction bs generalizing d y0 with
  | nil => simp [Drawing.rows, rowsCover, rowsHit]
  | cons b bs ih =>
    simp only [List.length_cons] at hl
    obtain ⟨rp, rh⟩ := drawRow d x0 y0 b
    obtain ⟨ip, ihh⟩ := ih (by omega) (Drawing.row d x0 y0 b) (y0 + 1)
    refine ⟨fun px py => ?_, ?_⟩
    · rw [Drawing.rows, ip, rp, rowsCover_cons]
      by_cases hy : py = wrapY y0
      · subst hy
        rw [rowsCover_fresh x0 y0 bs (by omega)]
        simp
      · simp [hy]
    · rw [Drawing.rows, ihh, rh, rowsHit_cons, Bool.or_assoc]
      have : rowsHit (Drawing.row d x0 y0 b).1 x0 (y0 + 1) bs = rowsHit d.1 x0 (y0 + 1) bs := by
        rw [rowsHit, rowsHit, Bool.eq_iff_iff, List.any_eq_true, List.any_eq_true]
        refine exists_congr fun r => and_congr_right fun hr => ?_
        rw [List.mem_range] at hr
        have hne : wrapY (y0 + 1 + r) ≠ wrapY y0 := by
          intro h
          rw [Nat.add_assoc] at h
          have := wrapY_inj (n := y0) (r := 1 + r) (q := 0) (by omega) (by omega) (by simpa using h)
          omega
        simp [columnsHit, rp, hne]
      rw [this]

/-! ## Frames -/

theorem Frame.refl (may : Part → Prop) (s : State) : Frame may s s := by
  intro p _
  cases p <;> rfl

/-- A frame holds with any larger set of parts. -/
theorem Frame.mono {may may' : Part → Prop} {s t : State} (h : Frame may s t) (hm : ∀ p, may p → may' p) :
    Frame may' s t := fun p hp => h p fun hc => hp (hm p hc)

theorem Same.trans {p : Part} {s t u : State} (h : Same p s t) (h' : Same p t u) : Same p s u := by
  cases p <;> exact Eq.trans h' h

theorem Frame.trans {may : Part → Prop} {s t u : State} (h : Frame may s t) (h' : Frame may t u) : Frame may s u :=
  fun p hp => (h p hp).trans (h' p hp)

end Sys2Proof.Machine
end

