-- ==== Sys2Proof/Laws/PerInstr.lean ====
section
/-! SUPPORT. What holds of every instruction as syntax, one lemma per constructor: its operands fit their fields, and its
encoding is its row's. -/

namespace Sys2Proof.Laws

/-! ## OperandsFit: every term of Instr is well-formed (30_encoding.md R103) -/

/-- The operands fit the fields of the instruction's format. -/
def OperandsFit.Statement (ins : Instr) : Prop := ins.wellFormed = true

theorem fits_none : Format.fixed.fits [] = true := rfl

theorem fits_addr (a : Addr12) : Format.addr.fits [a.toNat] = true := by
  have this : a.toNat < 4096 := a.isLt
  simp [Format.fits, Format.widths, this]

theorem fits_imm (x : Reg) (b : Byte) : Format.xImm.fits [x.val, b.toNat] = true := by
  have h1 := x.isLt
  have h2 : b.toNat < 256 := b.isLt
  simp [Format.fits, Format.widths, h2]

theorem fits_xy (x y : Reg) : Format.xySub.fits [x.val, y.val] = true := by
  have h1 := x.isLt
  have h2 := y.isLt
  simp [Format.fits, Format.widths]

theorem fits_xyn (x y : Reg) (n : Nibble) : Format.xyN.fits [x.val, y.val, n.toNat] = true := by
  have h1 := x.isLt
  have h2 := y.isLt
  have h3 : n.toNat < 16 := n.isLt
  simp [Format.fits, Format.widths, h3]

theorem fits_x (x : Reg) : Format.xSub.fits [x.val] = true := by
  have h1 := x.isLt
  simp [Format.fits, Format.widths]

theorem OperandsFit.op00E0 : OperandsFit.Statement .op00E0 := fits_none

theorem OperandsFit.op00EE : OperandsFit.Statement .op00EE := fits_none

theorem OperandsFit.op1NNN (a : Addr12) : OperandsFit.Statement (.op1NNN a) := fits_addr a

theorem OperandsFit.op2NNN (a : Addr12) : OperandsFit.Statement (.op2NNN a) := fits_addr a

theorem OperandsFit.op3XNN (x : Reg) (b : Byte) : OperandsFit.Statement (.op3XNN x b) := fits_imm x b

theorem OperandsFit.op4XNN (x : Reg) (b : Byte) : OperandsFit.Statement (.op4XNN x b) := fits_imm x b

theorem OperandsFit.op5XY0 (x y : Reg) : OperandsFit.Statement (.op5XY0 x y) := fits_xy x y

theorem OperandsFit.op6XNN (x : Reg) (b : Byte) : OperandsFit.Statement (.op6XNN x b) := fits_imm x b

theorem OperandsFit.op7XNN (x : Reg) (b : Byte) : OperandsFit.Statement (.op7XNN x b) := fits_imm x b

theorem OperandsFit.op8XY0 (x y : Reg) : OperandsFit.Statement (.op8XY0 x y) := fits_xy x y

theorem OperandsFit.op8XY1 (x y : Reg) : OperandsFit.Statement (.op8XY1 x y) := fits_xy x y

theorem OperandsFit.op8XY2 (x y : Reg) : OperandsFit.Statement (.op8XY2 x y) := fits_xy x y

theorem OperandsFit.op8XY3 (x y : Reg) : OperandsFit.Statement (.op8XY3 x y) := fits_xy x y

theorem OperandsFit.op8XY4 (x y : Reg) : OperandsFit.Statement (.op8XY4 x y) := fits_xy x y

theorem OperandsFit.op8XY5 (x y : Reg) : OperandsFit.Statement (.op8XY5 x y) := fits_xy x y

theorem OperandsFit.op8XY6 (x y : Reg) : OperandsFit.Statement (.op8XY6 x y) := fits_xy x y

theorem OperandsFit.op8XY7 (x y : Reg) : OperandsFit.Statement (.op8XY7 x y) := fits_xy x y

theorem OperandsFit.op8XYE (x y : Reg) : OperandsFit.Statement (.op8XYE x y) := fits_xy x y

theorem OperandsFit.op9XY0 (x y : Reg) : OperandsFit.Statement (.op9XY0 x y) := fits_xy x y

theorem OperandsFit.opANNN (a : Addr12) : OperandsFit.Statement (.opANNN a) := fits_addr a

theorem OperandsFit.opBNNN (a : Addr12) : OperandsFit.Statement (.opBNNN a) := fits_addr a

theorem OperandsFit.opCXNN (x : Reg) (b : Byte) : OperandsFit.Statement (.opCXNN x b) := fits_imm x b

theorem OperandsFit.opDXYN (x y : Reg) (n : Nibble) : OperandsFit.Statement (.opDXYN x y n) := fits_xyn x y n

theorem OperandsFit.opEX9E (x : Reg) : OperandsFit.Statement (.opEX9E x) := fits_x x

theorem OperandsFit.opEXA1 (x : Reg) : OperandsFit.Statement (.opEXA1 x) := fits_x x

theorem OperandsFit.opFX07 (x : Reg) : OperandsFit.Statement (.opFX07 x) := fits_x x

theorem OperandsFit.opFX0A (x : Reg) : OperandsFit.Statement (.opFX0A x) := fits_x x

theorem OperandsFit.opFX15 (x : Reg) : OperandsFit.Statement (.opFX15 x) := fits_x x

theorem OperandsFit.opFX18 (x : Reg) : OperandsFit.Statement (.opFX18 x) := fits_x x

theorem OperandsFit.opFX1E (x : Reg) : OperandsFit.Statement (.opFX1E x) := fits_x x

theorem OperandsFit.opFX29 (x : Reg) : OperandsFit.Statement (.opFX29 x) := fits_x x

theorem OperandsFit.opFX33 (x : Reg) : OperandsFit.Statement (.opFX33 x) := fits_x x

theorem OperandsFit.opFX55 (x : Reg) : OperandsFit.Statement (.opFX55 x) := fits_x x

theorem OperandsFit.opFX65 (x : Reg) : OperandsFit.Statement (.opFX65 x) := fits_x x

/-! ## EncodesToRow: the encoding matches one row of the table, and that row builds the instruction (30_encoding.md R120) -/

/-- Some row of the table carries the instruction's name, accepts its encoding and builds it. -/
def EncodesToRow.Statement (ins : Instr) : Prop :=
  ∃ r ∈ opcodeTable, r.mnemonic = ins.mnemonic ∧ r.accepts (encode ins) = true ∧ r.build (encode ins) = ins

theorem EncodesToRow.op00E0 : EncodesToRow.Statement .op00E0 :=
  ⟨⟨"00E0", 0x00E0, 0xFFFF, fun _ => .op00E0⟩, by simp [opcodeTable, rowsLow], rfl,
    rfl, rfl⟩

theorem EncodesToRow.op00EE : EncodesToRow.Statement .op00EE :=
  ⟨⟨"00EE", 0x00EE, 0xFFFF, fun _ => .op00EE⟩, by simp [opcodeTable, rowsLow], rfl,
    rfl, rfl⟩

theorem EncodesToRow.op1NNN (a : Addr12) : EncodesToRow.Statement (.op1NNN a) :=
  ⟨⟨"1NNN", 0x1000, 0xF000, fun op => .op1NNN (fieldNNN op)⟩, by simp [opcodeTable, rowsLow], rfl,
    by simp [Row.accepts, encode, layoutAddr_family]; rfl, by simp [encode]⟩

theorem EncodesToRow.op2NNN (a : Addr12) : EncodesToRow.Statement (.op2NNN a) :=
  ⟨⟨"2NNN", 0x2000, 0xF000, fun op => .op2NNN (fieldNNN op)⟩, by simp [opcodeTable, rowsLow], rfl,
    by simp [Row.accepts, encode, layoutAddr_family]; rfl, by simp [encode]⟩

theorem EncodesToRow.op3XNN (x : Reg) (b : Byte) : EncodesToRow.Statement (.op3XNN x b) :=
  ⟨⟨"3XNN", 0x3000, 0xF000, fun op => .op3XNN (fieldX op) (fieldNN op)⟩, by simp [opcodeTable, rowsLow], rfl,
    by simp [Row.accepts, encode, layoutImm_family]; rfl, by simp [encode]⟩

theorem EncodesToRow.op4XNN (x : Reg) (b : Byte) : EncodesToRow.Statement (.op4XNN x b) :=
  ⟨⟨"4XNN", 0x4000, 0xF000, fun op => .op4XNN (fieldX op) (fieldNN op)⟩, by simp [opcodeTable, rowsLow], rfl,
    by simp [Row.accepts, encode, layoutImm_family]; rfl, by simp [encode]⟩

theorem EncodesToRow.op5XY0 (x y : Reg) : EncodesToRow.Statement (.op5XY0 x y) :=
  ⟨⟨"5XY0", 0x5000, 0xF00F, fun op => .op5XY0 (fieldX op) (fieldY op)⟩, by simp [opcodeTable, rowsLow], rfl,
    by simp [Row.accepts, encode, layoutXY_sub]; rfl, by simp [encode]⟩

theorem EncodesToRow.op6XNN (x : Reg) (b : Byte) : EncodesToRow.Statement (.op6XNN x b) :=
  ⟨⟨"6XNN", 0x6000, 0xF000, fun op => .op6XNN (fieldX op) (fieldNN op)⟩, by simp [opcodeTable, rowsLow], rfl,
    by simp [Row.accepts, encode, layoutImm_family]; rfl, by simp [encode]⟩

theorem EncodesToRow.op7XNN (x : Reg) (b : Byte) : EncodesToRow.Statement (.op7XNN x b) :=
  ⟨⟨"7XNN", 0x7000, 0xF000, fun op => .op7XNN (fieldX op) (fieldNN op)⟩, by simp [opcodeTable, rowsLow], rfl,
    by simp [Row.accepts, encode, layoutImm_family]; rfl, by simp [encode]⟩

theorem EncodesToRow.op8XY0 (x y : Reg) : EncodesToRow.Statement (.op8XY0 x y) :=
  ⟨⟨"8XY0", 0x8000, 0xF00F, fun op => .op8XY0 (fieldX op) (fieldY op)⟩, by simp [opcodeTable, rowsAlu], rfl,
    by simp [Row.accepts, encode, layoutXY_sub]; rfl, by simp [encode]⟩

theorem EncodesToRow.op8XY1 (x y : Reg) : EncodesToRow.Statement (.op8XY1 x y) :=
  ⟨⟨"8XY1", 0x8001, 0xF00F, fun op => .op8XY1 (fieldX op) (fieldY op)⟩, by simp [opcodeTable, rowsAlu], rfl,
    by simp [Row.accepts, encode, layoutXY_sub]; rfl, by simp [encode]⟩

theorem EncodesToRow.op8XY2 (x y : Reg) : EncodesToRow.Statement (.op8XY2 x y) :=
  ⟨⟨"8XY2", 0x8002, 0xF00F, fun op => .op8XY2 (fieldX op) (fieldY op)⟩, by simp [opcodeTable, rowsAlu], rfl,
    by simp [Row.accepts, encode, layoutXY_sub]; rfl, by simp [encode]⟩

theorem EncodesToRow.op8XY3 (x y : Reg) : EncodesToRow.Statement (.op8XY3 x y) :=
  ⟨⟨"8XY3", 0x8003, 0xF00F, fun op => .op8XY3 (fieldX op) (fieldY op)⟩, by simp [opcodeTable, rowsAlu], rfl,
    by simp [Row.accepts, encode, layoutXY_sub]; rfl, by simp [encode]⟩

theorem EncodesToRow.op8XY4 (x y : Reg) : EncodesToRow.Statement (.op8XY4 x y) :=
  ⟨⟨"8XY4", 0x8004, 0xF00F, fun op => .op8XY4 (fieldX op) (fieldY op)⟩, by simp [opcodeTable, rowsAlu], rfl,
    by simp [Row.accepts, encode, layoutXY_sub]; rfl, by simp [encode]⟩

theorem EncodesToRow.op8XY5 (x y : Reg) : EncodesToRow.Statement (.op8XY5 x y) :=
  ⟨⟨"8XY5", 0x8005, 0xF00F, fun op => .op8XY5 (fieldX op) (fieldY op)⟩, by simp [opcodeTable, rowsAlu], rfl,
    by simp [Row.accepts, encode, layoutXY_sub]; rfl, by simp [encode]⟩

theorem EncodesToRow.op8XY6 (x y : Reg) : EncodesToRow.Statement (.op8XY6 x y) :=
  ⟨⟨"8XY6", 0x8006, 0xF00F, fun op => .op8XY6 (fieldX op) (fieldY op)⟩, by simp [opcodeTable, rowsAlu], rfl,
    by simp [Row.accepts, encode, layoutXY_sub]; rfl, by simp [encode]⟩

theorem EncodesToRow.op8XY7 (x y : Reg) : EncodesToRow.Statement (.op8XY7 x y) :=
  ⟨⟨"8XY7", 0x8007, 0xF00F, fun op => .op8XY7 (fieldX op) (fieldY op)⟩, by simp [opcodeTable, rowsAlu], rfl,
    by simp [Row.accepts, encode, layoutXY_sub]; rfl, by simp [encode]⟩

theorem EncodesToRow.op8XYE (x y : Reg) : EncodesToRow.Statement (.op8XYE x y) :=
  ⟨⟨"8XYE", 0x800E, 0xF00F, fun op => .op8XYE (fieldX op) (fieldY op)⟩, by simp [opcodeTable, rowsAlu], rfl,
    by simp [Row.accepts, encode, layoutXY_sub]; rfl, by simp [encode]⟩

theorem EncodesToRow.op9XY0 (x y : Reg) : EncodesToRow.Statement (.op9XY0 x y) :=
  ⟨⟨"9XY0", 0x9000, 0xF00F, fun op => .op9XY0 (fieldX op) (fieldY op)⟩, by simp [opcodeTable, rowsHigh], rfl,
    by simp [Row.accepts, encode, layoutXY_sub]; rfl, by simp [encode]⟩

theorem EncodesToRow.opANNN (a : Addr12) : EncodesToRow.Statement (.opANNN a) :=
  ⟨⟨"ANNN", 0xA000, 0xF000, fun op => .opANNN (fieldNNN op)⟩, by simp [opcodeTable, rowsHigh], rfl,
    by simp [Row.accepts, encode, layoutAddr_family]; rfl, by simp [encode]⟩

theorem EncodesToRow.opBNNN (a : Addr12) : EncodesToRow.Statement (.opBNNN a) :=
  ⟨⟨"BNNN", 0xB000, 0xF000, fun op => .opBNNN (fieldNNN op)⟩, by simp [opcodeTable, rowsHigh], rfl,
    by simp [Row.accepts, encode, layoutAddr_family]; rfl, by simp [encode]⟩

theorem EncodesToRow.opCXNN (x : Reg) (b : Byte) : EncodesToRow.Statement (.opCXNN x b) :=
  ⟨⟨"CXNN", 0xC000, 0xF000, fun op => .opCXNN (fieldX op) (fieldNN op)⟩, by simp [opcodeTable, rowsHigh], rfl,
    by simp [Row.accepts, encode, layoutImm_family]; rfl, by simp [encode]⟩

theorem EncodesToRow.opDXYN (x y : Reg) (n : Nibble) : EncodesToRow.Statement (.opDXYN x y n) :=
  ⟨⟨"DXYN", 0xD000, 0xF000, fun op => .opDXYN (fieldX op) (fieldY op) (fieldN op)⟩, by simp [opcodeTable, rowsHigh], rfl,
    by simp [Row.accepts, encode, layoutXY_family]; rfl, by simp [encode]⟩

theorem EncodesToRow.opEX9E (x : Reg) : EncodesToRow.Statement (.opEX9E x) :=
  ⟨⟨"EX9E", 0xE09E, 0xF0FF, fun op => .opEX9E (fieldX op)⟩, by simp [opcodeTable, rowsHigh], rfl,
    by simp [Row.accepts, encode, layoutImm_sub]; rfl, by simp [encode]⟩

theorem EncodesToRow.opEXA1 (x : Reg) : EncodesToRow.Statement (.opEXA1 x) :=
  ⟨⟨"EXA1", 0xE0A1, 0xF0FF, fun op => .opEXA1 (fieldX op)⟩, by simp [opcodeTable, rowsHigh], rfl,
    by simp [Row.accepts, encode, layoutImm_sub]; rfl, by simp [encode]⟩

theorem EncodesToRow.opFX07 (x : Reg) : EncodesToRow.Statement (.opFX07 x) :=
  ⟨⟨"FX07", 0xF007, 0xF0FF, fun op => .opFX07 (fieldX op)⟩, by simp [opcodeTable, rowsMisc], rfl,
    by simp [Row.accepts, encode, layoutImm_sub]; rfl, by simp [encode]⟩

theorem EncodesToRow.opFX0A (x : Reg) : EncodesToRow.Statement (.opFX0A x) :=
  ⟨⟨"FX0A", 0xF00A, 0xF0FF, fun op => .opFX0A (fieldX op)⟩, by simp [opcodeTable, rowsMisc], rfl,
    by simp [Row.accepts, encode, layoutImm_sub]; rfl, by simp [encode]⟩

theorem EncodesToRow.opFX15 (x : Reg) : EncodesToRow.Statement (.opFX15 x) :=
  ⟨⟨"FX15", 0xF015, 0xF0FF, fun op => .opFX15 (fieldX op)⟩, by simp [opcodeTable, rowsMisc], rfl,
    by simp [Row.accepts, encode, layoutImm_sub]; rfl, by simp [encode]⟩

theorem EncodesToRow.opFX18 (x : Reg) : EncodesToRow.Statement (.opFX18 x) :=
  ⟨⟨"FX18", 0xF018, 0xF0FF, fun op => .opFX18 (fieldX op)⟩, by simp [opcodeTable, rowsMisc], rfl,
    by simp [Row.accepts, encode, layoutImm_sub]; rfl, by simp [encode]⟩

theorem EncodesToRow.opFX1E (x : Reg) : EncodesToRow.Statement (.opFX1E x) :=
  ⟨⟨"FX1E", 0xF01E, 0xF0FF, fun op => .opFX1E (fieldX op)⟩, by simp [opcodeTable, rowsMisc], rfl,
    by simp [Row.accepts, encode, layoutImm_sub]; rfl, by simp [encode]⟩

theorem EncodesToRow.opFX29 (x : Reg) : EncodesToRow.Statement (.opFX29 x) :=
  ⟨⟨"FX29", 0xF029, 0xF0FF, fun op => .opFX29 (fieldX op)⟩, by simp [opcodeTable, rowsMisc], rfl,
    by simp [Row.accepts, encode, layoutImm_sub]; rfl, by simp [encode]⟩

theorem EncodesToRow.opFX33 (x : Reg) : EncodesToRow.Statement (.opFX33 x) :=
  ⟨⟨"FX33", 0xF033, 0xF0FF, fun op => .opFX33 (fieldX op)⟩, by simp [opcodeTable, rowsMisc], rfl,
    by simp [Row.accepts, encode, layoutImm_sub]; rfl, by simp [encode]⟩

theorem EncodesToRow.opFX55 (x : Reg) : EncodesToRow.Statement (.opFX55 x) :=
  ⟨⟨"FX55", 0xF055, 0xF0FF, fun op => .opFX55 (fieldX op)⟩, by simp [opcodeTable, rowsMisc], rfl,
    by simp [Row.accepts, encode, layoutImm_sub]; rfl, by simp [encode]⟩

theorem EncodesToRow.opFX65 (x : Reg) : EncodesToRow.Statement (.opFX65 x) :=
  ⟨⟨"FX65", 0xF065, 0xF0FF, fun op => .opFX65 (fieldX op)⟩, by simp [opcodeTable, rowsMisc], rfl,
    by simp [Row.accepts, encode, layoutImm_sub]; rfl, by simp [encode]⟩

end Sys2Proof.Laws
end

