-- ==== Sys2Proof/Tests/Slice0.lean ====
section
/-! SUPPORT. The model's own tests: ill-formed operands that WellFormed refuses; words written out from 30_encoding.md R102 and
R120 and what they decode to, every row of the table; steps whose expected results are the vectors of 95_test_vectors.md (the
docstring or the name of a test gives the instruction, the comment the vector); and for every statement of
Certificates/Slice0/Obligations.lean that has hypotheses, a concrete state and operands that meet them. -/

namespace Sys2Proof.Tests
open Sys2Proof Sys2Proof.Machine

/-! ## Helpers -/

/-- The outcome is a next state that passes the check. -/
def after (o : Host.Outcome State Fault Refusal) (p : State → Bool) : Bool :=
  match o with
  | .next t => p t
  | .fault _ => false
  | .refused _ => false

/-- The reset state with PC, I and some registers set. -/
def machine (pc : Word) (i : Word) (l : List (Reg × Byte)) : State :=
  l.foldl (fun s p => s.setReg p.1 p.2) { State.reset with pc := pc, i := i }

/-- Bytes put into memory from an address. -/
def withBytes (s : State) (a : Nat) (bs : List Byte) : State :=
  { s with mem := Memory.load s.mem a bs }

/-- The step that fetches the opcode at PC answers a next state that passes the check. -/
def stepOn (op : Word) (s : State) (p : State → Bool) : Bool :=
  after (step (withBytes s s.pc.toNat [highByte op, lowByte op])) p

/-- Registers read together. -/
def regs (s : State) (l : List Reg) : List Byte := l.map s.reg

/-- Bytes read together. -/
def bytes (s : State) (a n : Nat) : List Byte := (List.range n).map fun k => s.mem.get (a + k)

/-- The pixels that are on, column by column. -/
def lit (s : State) : List (Nat × Nat) :=
  (List.finRange 64).flatMap fun x =>
    ((List.finRange 32).filter fun y => Framebuffer.pixel s.fb x y).map fun y => (x.val, y.val)

/-- The reset state with some pixels on. -/
def withPixels (s : State) (l : List (Fin 64 × Fin 32)) : State :=
  { s with fb := l.foldl (fun fb p => Framebuffer.toggle fb p.1 p.2) s.fb }

/-- The reset state with keys pressed. -/
def withKeys (s : State) (l : List Key) : State :=
  { s with keys := l.foldl (fun ks (k : Key) => ks.set k.val true) s.keys }

/-! ## WellFormed refuses -/

theorem test_refuses_operand_of_fixed : Format.fixed.fits [0] = false := by decide
theorem test_refuses_address_of_13_bits : Format.addr.fits [0x1000] = false := by decide
theorem test_refuses_register_16 : Format.xImm.fits [16, 0] = false := by decide
theorem test_refuses_immediate_of_9_bits : Format.xImm.fits [0, 0x100] = false := by decide
theorem test_refuses_second_register_16 : Format.xySub.fits [0, 16] = false := by decide
theorem test_refuses_nibble_of_5_bits : Format.xyN.fits [0, 0, 16] = false := by decide
theorem test_refuses_missing_operand : Format.xSub.fits [] = false := by decide

/-! ## Every row decodes a word written out from its encoding -/

theorem test_decode_families_0_to_2 :
    decode 0b0000_0000_1110_0000#16 = .ok .op00E0 ∧ decode 0b0000_0000_1110_1110#16 = .ok .op00EE ∧
    decode 0b0001_1010_1011_1100#16 = .ok (.op1NNN 0xABC) ∧ decode 0b0010_0100_0000_0001#16 = .ok (.op2NNN 0x401) := by
  decide

theorem test_decode_families_3_to_7 :
    decode 0b0011_0011_0000_0111#16 = .ok (.op3XNN 3 0x07) ∧ decode 0b0100_1111_1000_0001#16 = .ok (.op4XNN 15 0x81) ∧
    decode 0b0101_0001_0010_0000#16 = .ok (.op5XY0 1 2) ∧ decode 0b0110_0000_0000_0101#16 = .ok (.op6XNN 0 0x05) ∧
    decode 0b0111_0010_1111_0001#16 = .ok (.op7XNN 2 0xF1) := by
  decide

theorem test_decode_family_8_moves_and_logic :
    decode 0b1000_0110_1001_0000#16 = .ok (.op8XY0 6 9) ∧ decode 0b1000_0110_1001_0001#16 = .ok (.op8XY1 6 9) ∧
    decode 0b1000_0110_1001_0010#16 = .ok (.op8XY2 6 9) ∧ decode 0b1000_0110_1001_0011#16 = .ok (.op8XY3 6 9) := by
  decide

theorem test_decode_family_8_arithmetic :
    decode 0b1000_0110_1001_0100#16 = .ok (.op8XY4 6 9) ∧ decode 0b1000_0110_1001_0101#16 = .ok (.op8XY5 6 9) ∧
    decode 0b1000_0110_1001_0110#16 = .ok (.op8XY6 6 9) ∧ decode 0b1000_0110_1001_0111#16 = .ok (.op8XY7 6 9) ∧
    decode 0b1000_0110_1001_1110#16 = .ok (.op8XYE 6 9) := by
  decide

theorem test_decode_families_9_to_D :
    decode 0b1001_0001_0010_0000#16 = .ok (.op9XY0 1 2) ∧ decode 0b1010_0001_0010_0011#16 = .ok (.opANNN 0x123) ∧
    decode 0b1011_0101_1111_0000#16 = .ok (.opBNNN 0x5F0) ∧ decode 0b1100_0011_0000_1111#16 = .ok (.opCXNN 3 0x0F) ∧
    decode 0b1101_1010_1011_0010#16 = .ok (.opDXYN 10 11 2) := by
  decide

theorem test_decode_family_E :
    decode 0b1110_0101_1001_1110#16 = .ok (.opEX9E 5) ∧ decode 0b1110_0101_1010_0001#16 = .ok (.opEXA1 5) := by
  decide

theorem test_decode_family_F :
    decode 0b1111_0100_0000_0111#16 = .ok (.opFX07 4) ∧ decode 0b1111_0100_0000_1010#16 = .ok (.opFX0A 4) ∧
    decode 0b1111_0100_0001_0101#16 = .ok (.opFX15 4) ∧ decode 0b1111_0100_0001_1000#16 = .ok (.opFX18 4) ∧
    decode 0b1111_0100_0001_1110#16 = .ok (.opFX1E 4) ∧ decode 0b1111_0100_0010_1001#16 = .ok (.opFX29 4) ∧
    decode 0b1111_0100_0011_0011#16 = .ok (.opFX33 4) ∧ decode 0b1111_0100_0101_0101#16 = .ok (.opFX55 4) ∧
    decode 0b1111_0100_0110_0101#16 = .ok (.opFX65 4) := by
  decide

/-- V-L1-9, V-E-5 to V-E-8. -/
theorem test_decode_unknown :
    [0x5001, 0xFFFF, 0x0123, 0x01E0, 0x8AB8, 0x8ABF, 0x9AB1, 0xE30E, 0xF000, 0xF0FF, 0x00FF].all
      (fun op => nameOfWord op == "???") = true := by decide

/-- The table's numbering of a word's bits, and the rejection of what is no instruction. -/
theorem test_decode_table_word :
    decodeTableWord 16 0x6005 = some (.op6XNN 0 5) ∧ decodeTableWord 16 0x5001 = none := by decide

/-! ## The engine -/

/-- V-E-1. -/
theorem test_step_at_odd_pc :
    stepOn 0x6005 (machine 0x201 0 []) (fun t => t.reg 0 == 0x05 && t.opc == 0x6005 && t.pc == 0x203) = true := by decide

/-- V-E-3. -/
theorem test_fetch_fault_second_byte :
    after (step (machine 0xFFF 0 [])) (fun t => t.run == .faulted && t.pc == 0xFFF && t.opc == 0 &&
      t.fault == some ⟨.outOfRangeAccess, 0xFFF, none, some 0x1000⟩) = true := by decide

/-- V-L1-9. -/
theorem test_unknown_word_advances :
    stepOn 0x5001 (machine 0x200 0 []) (fun t => t.pc == 0x202 && t.opc == 0x5001 && t.run == .stopped) = true := by decide

/-- V-E-10. -/
theorem test_faulted_tick_changes_nothing :
    after (tickWith 4 { State.reset with run := .faulted, dt := 5 }) (fun t => t.dt == 5 && t.pc == 0x200) = true := by decide

/-- V-E-12: the third instruction of the tick faults and leaves the machine as before its fetch. -/
theorem test_tick_ends_at_fault :
    after (tickWith 3 { withBytes (machine 0x200 0 []) 0x200 [0x61, 0x03, 0xF1, 0x15, 0x00, 0xEE] with run := .running })
      (fun t => t.pc == 0x204 && t.opc == 0xF115 && t.reg 1 == 3 && t.dt == 3 &&
        t.fault == some ⟨.stackUnderflow, 0x204, some 0x00EE, none⟩) = true := by decide

/-- V-E-15, V-E-16, at the edge of memory. -/
theorem test_load_program_bound :
    (loadProgram [1, 2] 0xFFE State.reset).2 = .ok ∧ (loadProgram [1, 2] 0xFFF State.reset).2 = .romTooLarge := by decide

/-- V-E-11, and 70_reset_and_hazards.md R360. -/
theorem test_reset_leaves_faulted :
    (resetOp { State.reset with run := .faulted, fault := some ⟨.stackUnderflow, 0x200, some 0xEE, none⟩, pc := 0x300 }).run
      = .stopped := by decide

/-! ## Control flow -/

/-- V-C-1. -/
theorem test_00EE_returns :
    stepOn 0x00EE { machine 0x212 0 [] with stack := [0x206] } (fun t => t.pc == 0x206 && t.stack == []) = true := by decide
/-- V-C-2. -/
theorem test_00EE_underflow :
    stepOn 0x00EE (machine 0x300 0 []) (fun t => t.pc == 0x300 &&
      t.fault == some ⟨.stackUnderflow, 0x300, some 0x00EE, none⟩) = true := by decide
/-- V-C-3. -/
theorem test_1NNN : stepOn 0x1ABC (machine 0x200 0 []) (fun t => t.pc == 0xABC) = true := by decide
/-- V-C-7. -/
theorem test_2NNN_last_entry :
    stepOn 0x2400 { machine 0x200 0 [] with stack := List.replicate 15 0x300 }
      (fun t => t.pc == 0x400 && t.stack == List.replicate 15 0x300 ++ [0x202]) = true := by decide
/-- V-C-6. -/
theorem test_2NNN_overflow :
    stepOn 0x2400 { machine 0x200 0 [] with stack := List.replicate 16 0x300 }
      (fun t => t.pc == 0x200 && t.stack.length == 16 &&
        t.fault == some ⟨.stackOverflow, 0x200, some 0x2400, none⟩) = true := by decide
/-- V-C-8. -/
theorem test_3XNN : stepOn 0x3307 (machine 0x300 0 [(3, 7)]) (fun t => t.pc == 0x304) = true ∧
    stepOn 0x3308 (machine 0x300 0 [(3, 7)]) (fun t => t.pc == 0x302) = true := by decide
/-- V-C-10. -/
theorem test_4XNN : stepOn 0x4307 (machine 0x300 0 [(3, 7)]) (fun t => t.pc == 0x302) = true ∧
    stepOn 0x4308 (machine 0x300 0 [(3, 7)]) (fun t => t.pc == 0x304) = true := by decide
/-- V-C-11, V-C-12. -/
theorem test_5XY0 : stepOn 0x5120 (machine 0x200 0 [(1, 0x40), (2, 0x40)]) (fun t => t.pc == 0x204) = true ∧
    stepOn 0x5120 (machine 0x200 0 [(1, 0x40), (2, 0x41)]) (fun t => t.pc == 0x202) = true := by decide
/-- V-C-12. -/
theorem test_9XY0 : stepOn 0x9120 (machine 0x200 0 [(1, 0x40), (2, 0x41)]) (fun t => t.pc == 0x204) = true := by decide
/-- V-C-16. -/
theorem test_BNNN_unmasked : stepOn 0xBFFF (machine 0x200 0 [(0, 0xFF)]) (fun t => t.pc == 0x10FE) = true := by decide
/-- V-C-17. -/
theorem test_BNNN_adds_V0 : stepOn 0xB5F0 (machine 0x200 0 [(5, 0x99)]) (fun t => t.pc == 0x5F0) = true := by decide

/-- 00_scope.md R7: with STACK_DEPTH 1 the second call overflows. -/
theorem test_2NNN_other_depth :
    stepOn 0x2400 { State.reset with stackDepth := 1, stack := [0x300] }
      (fun t => t.fault == some ⟨.stackOverflow, 0x200, some 0x2400, none⟩) = true := by decide

/-- 20_memory.md R83: reset copies the machine's own FONT and then Rom. -/
theorem test_reset_other_font :
    bytes (resetOp { State.reset with font := defaultFont.set 0 0x11, rom := ⟨[0x22], 1⟩ }) 0 3 = [0x11, 0x22, 0x90] := by
  decide +kernel

/-! ## Registers and arithmetic -/

/-- V-A-1. -/
theorem test_6XNN : stepOn 0x6AFF (machine 0x200 0 []) (fun t => t.reg 10 == 0xFF) = true := by decide
/-- V-A-2. -/
theorem test_7XNN_wraps_without_flag :
    stepOn 0x7201 (machine 0x200 0 [(2, 0xFF), (15, 0x55)]) (fun t => regs t [2, 15] == [0, 0x55]) = true := by decide
/-- V-A-4. -/
theorem test_8XY0 : stepOn 0x8010 (machine 0x200 0 [(1, 0x3C)]) (fun t => regs t [0, 1] == [0x3C, 0x3C]) = true := by decide
/-- V-A-5. -/
theorem test_8XY1 :
    stepOn 0x8011 (machine 0x200 0 [(0, 0xF0), (1, 0x0F), (15, 0x77)]) (fun t => regs t [0, 15] == [0xFF, 0x77]) = true := by
  decide
/-- V-A-6. -/
theorem test_8XY2 : stepOn 0x8012 (machine 0x200 0 [(0, 0xF0), (1, 0x3C)]) (fun t => t.reg 0 == 0x30) = true := by decide
/-- V-A-6. -/
theorem test_8XY3 : stepOn 0x8013 (machine 0x200 0 [(0, 0xF0), (1, 0x3C)]) (fun t => t.reg 0 == 0xCC) = true := by decide
/-- V-L1-2. -/
theorem test_8XY4_carry :
    stepOn 0x8014 (machine 0x200 0 [(0, 0xFF), (1, 1)]) (fun t => regs t [0, 15] == [0, 1]) = true := by decide
/-- V-A-9, V-A-10, V-A-12. -/
theorem test_8XY4_with_VF :
    stepOn 0x8F14 (machine 0x200 0 [(15, 0xFF), (1, 1)]) (fun t => t.reg 15 == 2) = true ∧
    stepOn 0x80F4 (machine 0x200 0 [(0, 0xFF), (15, 1)]) (fun t => regs t [0, 15] == [0, 1]) = true ∧
    stepOn 0x8FF4 (machine 0x200 0 [(15, 0x80)]) (fun t => t.reg 15 == 2) = true := by decide
/-- V-L1-3. -/
theorem test_8XY5_borrow :
    stepOn 0x8015 (machine 0x200 0 [(0, 5), (1, 10)]) (fun t => regs t [0, 15] == [0xFB, 0]) = true := by decide
/-- V-A-13, V-A-14, V-A-15. -/
theorem test_8XY5_equal_and_VF :
    stepOn 0x8015 (machine 0x200 0 [(0, 0x33), (1, 0x33)]) (fun t => regs t [0, 15] == [0, 1]) = true ∧
    stepOn 0x8F15 (machine 0x200 0 [(15, 5), (1, 3)]) (fun t => t.reg 15 == 0xFE) = true ∧
    stepOn 0x80F5 (machine 0x200 0 [(0, 5), (15, 3)]) (fun t => regs t [0, 15] == [4, 1]) = true := by decide
/-- V-A-17. -/
theorem test_8XY6 : stepOn 0x8406 (machine 0x200 0 [(4, 5)]) (fun t => regs t [4, 15] == [2, 1]) = true := by decide
/-- V-A-18, V-A-19. -/
theorem test_8XY6_ignores_VY :
    stepOn 0x8456 (machine 0x200 0 [(4, 4), (5, 0xFF)]) (fun t => regs t [4, 5, 15] == [2, 0xFF, 0]) = true ∧
    stepOn 0x8F06 (machine 0x200 0 [(15, 3)]) (fun t => t.reg 15 == 0) = true := by decide
/-- V-A-20, V-A-21. -/
theorem test_8XY7 :
    stepOn 0x8017 (machine 0x200 0 [(0, 5), (1, 10)]) (fun t => regs t [0, 15] == [5, 1]) = true ∧
    stepOn 0x8017 (machine 0x200 0 [(0, 10), (1, 5)]) (fun t => regs t [0, 15] == [0xFB, 0]) = true := by decide
/-- V-A-22, V-A-23. -/
theorem test_8XY7_with_VF :
    stepOn 0x8F17 (machine 0x200 0 [(15, 2), (1, 5)]) (fun t => t.reg 15 == 4) = true ∧
    stepOn 0x80F7 (machine 0x200 0 [(0, 5), (15, 3)]) (fun t => regs t [0, 15] == [0xFB, 0]) = true := by decide
/-- V-A-24. -/
theorem test_8XYE : stepOn 0x840E (machine 0x200 0 [(4, 0x81)]) (fun t => regs t [4, 15] == [2, 1]) = true := by decide
/-- V-A-25. -/
theorem test_8XYE_on_VF : stepOn 0x8F0E (machine 0x200 0 [(15, 0x80)]) (fun t => t.reg 15 == 2) = true ∧
    stepOn 0x8F0E (machine 0x200 0 [(15, 0x40)]) (fun t => t.reg 15 == 0) = true := by decide
/-- V-A-27: whatever the draw. -/
theorem test_CXNN_masks_every_draw :
    ∃ t, exec (.opCXNN 3 0) (machine 0x200 0 [(3, 0x99)]) = .next t ∧ t.reg 3 = 0 :=
  ⟨_, rfl, BitVec.and_zero⟩

/-! ## Index register and memory -/

/-- V-M-1. -/
theorem test_ANNN : stepOn 0xA123 (machine 0x200 0 []) (fun t => t.i == 0x123) = true := by decide
/-- V-M-2, V-M-5. -/
theorem test_FX1E_wraps :
    stepOn 0xF01E (machine 0x200 0xFFF [(0, 1)]) (fun t => t.i == 0 && t.reg 15 == 1) = true ∧
    stepOn 0xF01E (machine 0x200 0xFEF [(0, 0x10)]) (fun t => t.i == 0xFFF && t.reg 15 == 0) = true := by decide
/-- V-M-6, V-M-7. -/
theorem test_FX1E_with_VF :
    stepOn 0xFF1E (machine 0x200 0xFFE [(15, 5)]) (fun t => t.i == 0xFFF && t.reg 15 == 1) = true ∧
    stepOn 0xFF1E (machine 0x200 0x100 [(15, 5)]) (fun t => t.i == 0x100 && t.reg 15 == 0) = true := by decide
/-- V-M-8. -/
theorem test_FX29 : stepOn 0xF029 (machine 0x200 0 [(0, 0xFF)]) (fun t => t.i == 0x4FB) = true := by decide
/-- V-L1-7, V-M-11. -/
theorem test_FX33 :
    stepOn 0xF033 (machine 0x200 0x300 [(0, 0xEA)]) (fun t => bytes t 0x300 3 == [2, 3, 4] && t.i == 0x300) = true ∧
    stepOn 0xF033 (machine 0x200 0xFFD [(0, 0x7B)]) (fun t => bytes t 0xFFD 3 == [1, 2, 3]) = true := by decide
/-- V-M-10. -/
theorem test_FX33_outside :
    stepOn 0xF033 (machine 0x200 0xFFE [(0, 0x7B)]) (fun t => bytes t 0xFFE 2 == [0, 0] &&
      t.fault == some ⟨.outOfRangeAccess, 0x200, some 0xF033, some 0x1000⟩) = true := by decide
/-- V-M-12, V-M-17. -/
theorem test_FX55 :
    stepOn 0xF155 (machine 0x200 0x300 [(0, 0x12), (1, 0x34), (2, 0x56)])
      (fun t => bytes t 0x300 3 == [0x12, 0x34, 0] && t.i == 0x300) = true ∧
    stepOn 0xF055 (machine 0x200 0x050 [(0, 0x99)]) (fun t => bytes t 0x050 1 == [0x99]) = true := by decide
/-- V-M-14. -/
theorem test_FX55_outside :
    stepOn 0xFF55 (machine 0x200 0xFF1 [(0, 1)]) (fun t => bytes t 0xFF1 1 == [0] &&
      t.fault == some ⟨.outOfRangeAccess, 0x200, some 0xFF55, some 0x1000⟩) = true := by decide
/-- V-M-15. -/
theorem test_FX65 :
    stepOn 0xF265 (withBytes (machine 0x200 0x300 [(3, 7)]) 0x300 [2, 3, 4, 5])
      (fun t => regs t [0, 1, 2, 3] == [2, 3, 4, 7] && t.i == 0x300) = true := by decide

/-! ## Display -/

/-- V-D-1. -/
theorem test_00E0 :
    stepOn 0x00E0 (withPixels (machine 0x200 0 [(15, 9)]) [(0, 0), (63, 31)])
      (fun t => lit t == [] && t.reg 15 == 9 && t.emitted == [.framebufferChanged]) = true := by decide
/-- V-D-4, V-D-11. -/
theorem test_DXYN_collision_and_VF_operand :
    stepOn 0xD011 (withPixels (withBytes (machine 0x200 0x300 []) 0x300 [0xC0]) [(0, 0)])
      (fun t => lit t == [(1, 0)] && t.reg 15 == 1) = true ∧
    stepOn 0xDF01 (withBytes (machine 0x200 0x300 [(15, 5)]) 0x300 [0x80])
      (fun t => lit t == [(5, 0)] && t.reg 15 == 0) = true := by decide
/-- P3, step 5: wrap on both axes. -/
theorem test_DXYN_wraps :
    stepOn 0xDAB2 (withBytes (machine 0x200 0x20E [(10, 0x3E), (11, 0x1F)]) 0x20E [0xC0, 0x81])
      (fun t => lit t == [(5, 0), (62, 0), (62, 31), (63, 31)] && t.reg 15 == 0) = true := by decide

/-! ## Keypad and timers -/

/-- V-K-1, V-K-2. -/
theorem test_EX9E :
    stepOn 0xE59E (withKeys (machine 0x220 0 [(5, 12)]) [12]) (fun t => t.pc == 0x224) = true ∧
    stepOn 0xE59E (machine 0x220 0 [(5, 12)]) (fun t => t.pc == 0x222) = true := by decide
/-- V-K-3. -/
theorem test_EXA1 : stepOn 0xE5A1 (machine 0x220 0 [(5, 12)]) (fun t => t.pc == 0x224) = true := by decide
/-- V-K-4. -/
theorem test_key_16_faults :
    stepOn 0xE59E (machine 0x220 0 [(5, 0x10)]) (fun t =>
      t.fault == some ⟨.outOfRangeAccess, 0x220, some 0xE59E, some 0x10⟩) = true ∧
    stepOn 0xE5A1 (machine 0x220 0 [(5, 0x10)]) (fun t =>
      t.fault == some ⟨.outOfRangeAccess, 0x220, some 0xE5A1, some 0x10⟩) = true := by decide
/-- V-K-5. -/
theorem test_FX0A_waits :
    stepOn 0xF30A (machine 0x200 0 [(3, 9)]) (fun t => t.pc == 0x200 && t.reg 3 == 9 && t.opc == 0xF30A) = true := by decide
/-- V-K-6. -/
theorem test_FX0A_one_key :
    stepOn 0xF30A (withKeys (machine 0x200 0 []) [7]) (fun t => t.pc == 0x202 && t.reg 3 == 7) = true := by decide
/-- V-K-8. -/
theorem test_FX07 : stepOn 0xF407 { machine 0x200 0 [] with dt := 0x3C } (fun t => t.reg 4 == 0x3C) = true := by decide
/-- V-K-9. -/
theorem test_FX15 : stepOn 0xF415 (machine 0x200 0 [(4, 5)]) (fun t => t.dt == 5 && t.st == 0) = true := by decide
/-- V-K-10, its first state. -/
theorem test_FX18 : stepOn 0xF418 (machine 0x200 0 [(4, 2)]) (fun t => t.st == 2 && t.dt == 0) = true := by decide
/-- V-L1-12. -/
theorem test_tick_emits_tone_once :
    after (applyCalls 0 [.tick, .tick] { State.reset with st := 1 })
      (fun t => t.st == 0 && t.emitted == [.toneRequest]) = true := by decide

/-! ## Witnesses: states and operands that meet the hypotheses of the statements, at the boundary of each clause -/

/-- Every `Encoded` clause is about some word: its pattern is one. With 8XYF, the clause of CopyAndBitwise on Unknown words. -/
theorem witness_Encoded :
    opcodeTable.all (fun r => r.pattern &&& r.mask == r.pattern) = true ∧ (0x800F : Word) &&& 0xF00F = 0x800F := by decide

theorem witness_EncodeOfDecode : decode 0x6005 = .ok (.op6XNN 0 5) := by decide

theorem witness_DecodeFollowsTheUniqueRow :
    (opcodeTable.any (fun r => (0x6005 : Word) &&& r.mask == r.pattern)) = true ∧
    (opcodeTable.all (fun r => (0x5001 : Word) &&& r.mask != r.pattern)) = true := by decide

/-- One word of each clause, at the edge of the family's assigned words. -/
theorem witness_UnknownWordsAreThoseListed :
    [0x00E1, 0x5FF1, 0x8AB8, 0x800F, 0x9001, 0xE09F, 0xF066].all (fun op => decode op == .error .unknownOpcode) = true := by
  decide

/-- The last PC that fetches, and an odd one. -/
theorem witness_StepRunsTheDecodedInstruction :
    let s := withBytes (machine 0xFFE 0 []) 0xFFE [0x60, 0x05]
    s.safe ∧ s.pc.toNat + 1 < memSize ∧
      decode (wordOfBytes (s.mem.get s.pc.toNat) (s.mem.get (s.pc.toNat + 1))) = .ok (.op6XNN 0 5) := by decide

theorem witness_UnknownWordIsNoOpAdvance :
    let s := withBytes (machine 0xFFE 0 []) 0xFFE [0x50, 0x01]
    s.safe ∧ fetch s = .ok 0x5001 ∧ decode 0x5001 = .error .unknownOpcode := by decide

theorem witness_FetchOutsideMemoryTakesFault :
    (machine 0xFFF 0 []).safe ∧ 0xFFF ≤ (machine 0xFFF 0 []).pc.toNat ∧ 4096 ≤ (machine 0x1000 0 []).pc.toNat := by decide

theorem witness_InstructionFaultsArePrecise :
    State.reset.safe ∧ ∃ t, exec .op00EE State.reset = .next t ∧ t.run = .faulted := ⟨by decide, _, rfl, rfl⟩

/-- A machine that a return with no caller has left Faulted. -/
def faulted : State := State.reset.takeFault (some 0x00EE) ⟨.stackUnderflow, none⟩

theorem witness_FaultedIsFinalUntilReset :
    faulted.run = .faulted ∧ HostCall.tick ≠ .reset ∧ ∃ t, HostCall.tick.apply 3 faulted = .next t :=
  ⟨rfl, by decide, _, rfl⟩

theorem witness_RunStateTransitions :
    (∃ t, HostCall.reset.apply 3 faulted = .next t) ∧
    (faulted.run = .faulted ∧ HostCall.run ≠ .reset ∧ ∃ t, HostCall.run.apply 3 faulted = .next t) ∧
    (State.reset.run ≠ .faulted ∧ ∃ t, HostCall.run.apply 3 State.reset = .next t) ∧
    (∃ t, HostCall.stop.apply 3 State.reset = .next t) ∧ (∃ t, HostCall.step.apply 3 State.reset = .next t) ∧
    (∃ t, HostCall.tick.apply 3 State.reset = .next t) ∧ (∃ t, (HostCall.setKey 15 true).apply 3 State.reset = .next t) ∧
    ∃ t, (HostCall.loadProgram [0x12, 0x00] 0x200).apply 3 State.reset = .next t :=
  ⟨⟨_, rfl⟩, ⟨rfl, by decide, _, rfl⟩, ⟨by decide, _, rfl⟩, ⟨_, rfl⟩, ⟨_, rfl⟩, ⟨_, rfl⟩, ⟨_, rfl⟩, ⟨_, rfl⟩⟩

/-- The four cases of AddWithCarry and SubtractWithNoBorrowFlag, and the two of ShiftByOne and AddToIndexWraps. -/
theorem witness_operand_cases_with_VF :
    ((1 : Reg) ≠ VF ∧ (2 : Reg) ≠ VF) ∧ ((15 : Reg) = VF ∧ (1 : Reg) ≠ VF) ∧ ((1 : Reg) ≠ VF ∧ (15 : Reg) = VF) := by decide

/-- A NN that clears a bit. -/
theorem witness_RandomMaskedByte : (0x0F : Byte).getLsbD 4 = false ∧ (0x0F : Byte).getLsbD 7 = false := by decide

theorem witness_JumpTargets :
    (machine 0x200 0 []).pc.toNat = (0x200 : Addr12).toNat ∧
    ∃ t, exec (.opBNNN 0xF00) (machine 0x200 0 [(0, 0xFF)]) = .next t ∧ 0xFFE < t.pc.toNat := ⟨by decide, _, rfl, by decide⟩

theorem witness_SkipOnImmediate :
    (∃ t, exec (.op3XNN 0 0) (machine 0xFFE 0 []) = .next t ∧ 0xFFE < t.pc.toNat) ∧
    ∃ t, exec (.op4XNN 0 1) (machine 0xFFE 0 []) = .next t ∧ 0xFFE < t.pc.toNat := ⟨⟨_, rfl, by decide⟩, _, rfl, by decide⟩

theorem witness_CallPushesReturnAddress :
    { State.reset with stack := List.replicate 15 0x300 }.stack.length ≠ State.reset.stackDepth ∧
    { State.reset with stack := List.replicate 16 0x300 }.stack.length = State.reset.stackDepth := by decide

theorem witness_ReturnPopsTopEntry :
    { State.reset with stack := [0x206] }.stack = [] ++ [0x206] ∧ State.reset.stack = [] := by decide

theorem witness_CallThenReturnRestores :
    { State.reset with stack := List.replicate 15 0x300 }.stack.length < State.reset.stackDepth ∧
    ∃ t, exec (.op2NNN 0x400) { State.reset with stack := List.replicate 15 0x300 } = .next t ∧ t.stack.length = 16 :=
  ⟨by decide, _, rfl, by decide⟩

theorem witness_StoreDecimalDigits :
    (machine 0x200 0xFFD []).dataAddress + 2 < memSize ∧ memSize ≤ (machine 0x200 0xFFE []).dataAddress + 2 := by decide

theorem witness_StoreRegisterBlock :
    (machine 0x200 0xFF0 []).dataAddress + (15 : Reg).val < memSize ∧
    memSize ≤ (machine 0x200 0xFF1 []).dataAddress + (15 : Reg).val := by decide

theorem witness_LoadRegisterBlock :
    (machine 0x200 0xFFF []).dataAddress + (0 : Reg).val < memSize ∧
    memSize ≤ (machine 0x200 0xFFF []).dataAddress + (1 : Reg).val := by decide

theorem witness_StoreThenLoadRestoresRegisters :
    (machine 0x200 0xFFE [(0, 7)]).dataAddress + (1 : Reg).val < memSize ∧
    ∃ t, exec (.opFX55 1) (machine 0x200 0xFFE [(0, 7)]) = .next t := ⟨by decide, _, rfl⟩

/-- Both bytes of the next word stored over, at the last PC with a next word; and the last byte of FX33 over its first byte. -/
theorem witness_StoredWordIsFetchedNext :
    ((machine 0xFFC 0xFFE []).pc.toNat + 3 < memSize ∧ (machine 0xFFC 0xFFE []).dataAddress + (1 : Reg).val < memSize) ∧
    ((machine 0x200 0x200 []).pc.toNat + 3 < memSize ∧ (machine 0x200 0x200 []).dataAddress + 2 < memSize) ∧
    ∀ k : Reg, k ≤ 1 → 0x205 ≠ (machine 0x200 0x202 []).dataAddress + k.val := by decide

/-- A machine at whose I stands a one-row sprite with its left column set, to draw at (0, 0). -/
def sprite (fb : List (Fin 64 × Fin 32)) : State :=
  withPixels (withBytes (machine 0x200 0xFFF []) 0xFFF [0x80]) fb

theorem witness_DrawSpriteXorsAndDetectsCollision :
    (0 : Nibble) = 0 ∧ (sprite []).dataAddress + (1 : Nibble).toNat ≤ memSize ∧
    ((sprite [(0, 0)]).spriteCovers 0 1 1 0 0 = true ∧ Framebuffer.pixel (sprite [(0, 0)]).fb 0 0 = true) ∧
    (∀ px py, (sprite []).spriteCovers 0 1 1 px py = true → Framebuffer.pixel (sprite []).fb px py = false) ∧
    ((2 : Nibble) ≠ 0 ∧ memSize < (sprite []).dataAddress + (2 : Nibble).toNat) := by
  decide

theorem witness_DrawTwiceRestoresFramebuffer :
    (sprite []).dataAddress + (1 : Nibble).toNat ≤ memSize ∧
    (∃ t, exec (.opDXYN 0 1 1) (sprite []) = .next t ∧ t.mem = (sprite []).mem ∧ t.i = (sprite []).i ∧
      t.reg 0 = (sprite []).reg 0 ∧ t.reg 1 = (sprite []).reg 1) ∧
    ((sprite []).spriteCovers 0 1 1 0 0 = true ∧ Framebuffer.pixel (sprite []).fb 0 0 = false) ∧
    (∀ px py, (sprite [(0, 0)]).spriteCovers 0 1 1 px py = true → Framebuffer.pixel (sprite [(0, 0)]).fb px py = true) ∧
    (∀ px py, (sprite []).spriteCovers 0 1 1 px py = true → Framebuffer.pixel (sprite []).fb px py = false) := by
  refine ⟨by decide, ⟨_, rfl, rfl, rfl, by decide, by decide⟩, by decide, by decide, by decide⟩

theorem witness_SkipOnKey :
    ((machine 0x200 0 [(5, 15)]).reg 5).toNat < 16 ∧ 16 ≤ ((machine 0x200 0 [(5, 16)]).reg 5).toNat := by decide

theorem witness_WaitForKey :
    (∀ k, State.reset.pressed k = false) ∧ (∃ k, (withKeys State.reset [15]).pressed k = true) := by decide

theorem witness_TimerMoves : State.reset.run = .stopped := rfl

theorem witness_OnlyListedInstructionsWriteVF :
    ∃ t, exec (.op8XY4 0 1) (machine 0x200 0 [(0, 0xFF), (1, 1)]) = .next t ∧
      t.reg VF ≠ (machine 0x200 0 [(0, 0xFF), (1, 1)]).reg VF := ⟨_, rfl, by decide⟩

theorem witness_OnlyListedInstructionsRedirectPC :
    State.reset.safe ∧ ∃ t, exec (.op1NNN 0x400) State.reset = .next t ∧ t.safe ∧ t.pc ≠ State.reset.pc + 2 :=
  ⟨by decide, _, rfl, by decide, by decide⟩

theorem witness_OnlyListedInstructionsWriteIndex :
    ∃ t, exec (.opANNN 0xFFF) State.reset = .next t ∧ t.i ≠ State.reset.i := ⟨_, rfl, by decide⟩

theorem witness_StepNeverCountsTimers :
    (∃ t, step (withBytes (machine 0x200 0 [(4, 5)]) 0x200 [0xF4, 0x15]) = .next t ∧
      t.dt ≠ (withBytes (machine 0x200 0 [(4, 5)]) 0x200 [0xF4, 0x15]).dt) ∧
    ∃ t, step (withBytes (machine 0x200 0 [(4, 5)]) 0x200 [0xF4, 0x18]) = .next t ∧
      t.st ≠ (withBytes (machine 0x200 0 [(4, 5)]) 0x200 [0xF4, 0x18]).st := ⟨⟨_, rfl, by decide⟩, _, rfl, by decide⟩

theorem witness_OnlyClearAndDrawChangePixels :
    (∃ t, exec .op00E0 (sprite [(0, 0)]) = .next t ∧ t.fb ≠ (sprite [(0, 0)]).fb) ∧
    ∃ t, HostCall.reset.apply 3 (sprite [(0, 0)]) = .next t ∧ t.fb ≠ (sprite [(0, 0)]).fb :=
  ⟨⟨_, rfl, by decide⟩, _, rfl, by decide⟩

theorem witness_OnlyStoresChangeMemory :
    (∃ t, exec (.opFX55 0) (machine 0x200 0xFFF [(0, 7)]) = .next t ∧
      t.mem.get 0xFFF ≠ (machine 0x200 0xFFF [(0, 7)]).mem.get 0xFFF) ∧
    ∃ t, exec (.opFX33 0) (machine 0x200 0xFFD [(0, 7)]) = .next t ∧
      t.mem.get 0xFFF ≠ (machine 0x200 0xFFD [(0, 7)]).mem.get 0xFFF := ⟨⟨_, rfl, by decide⟩, _, rfl, by decide⟩

theorem witness_OnlyCallAndReturnChangeStack :
    (∃ t, exec (.op2NNN 0x400) State.reset = .next t ∧ t.stack ≠ State.reset.stack) ∧
    ∃ t, HostCall.reset.apply 3 { State.reset with stack := [0x206] } = .next t ∧ t.stack ≠ [0x206] :=
  ⟨⟨_, rfl, by decide⟩, _, rfl, by decide⟩

theorem witness_NoInstructionReadsOPC :
    (State.reset.safe ∧ fetch State.reset = .ok 0 ∧ ∃ t, step State.reset = .next t ∧ t.safe) ∧
    (∃ t, exec (.op1NNN 0x400) State.reset = .next t ∧ t.safe) ∧
    ∃ t, exec .op00EE State.reset = .next t ∧ t.run = .faulted :=
  ⟨⟨by decide, by decide, _, rfl, by decide⟩, ⟨_, rfl, by decide⟩, _, rfl, rfl⟩

theorem witness_NoInstructionReadsST :
    (∃ t, exec (.opFX18 0) State.reset = .next t) ∧ (∃ t, exec (.opFX15 0) State.reset = .next t) ∧
    ∀ x, Instr.opFX15 0 ≠ .opFX18 x := ⟨⟨_, rfl⟩, ⟨_, rfl⟩, by decide⟩

theorem witness_ParkedStaysParked : (withBytes (machine 0xFFE 0 []) 0xFFE [0x1F, 0xFE]).parkedAt 0xFFE := by decide

/-- The premises of the clause on ticks are met by any tick that answers; both run states. -/
theorem witness_StepNeverCountsTimers_tick :
    (∃ t, tickWith 2 State.reset = .next t) ∧ ∃ t, tickWith 2 (runOp State.reset) = .next t := ⟨⟨_, rfl⟩, _, rfl⟩

theorem witness_TickCountsTimersFirst :
    State.reset.safe ∧ State.reset.run = .stopped ∧ (runOp State.reset).safe ∧ (runOp State.reset).run = .running := by decide

theorem witness_QuotaSplits :
    State.reset.safe ∧ ∃ t, quotaLoop 1 (withBytes State.reset 0x200 [0x00, 0xEE]) = .next t ∧ t.run = .faulted := ⟨by decide, _, rfl, rfl⟩

theorem witness_KeyWaitSpendsTheQuota :
    let s := runOp (withBytes State.reset 0x200 [0xF3, 0x0A])
    s.run = .running ∧ fetch s = .ok (encode (.opFX0A 3)) ∧ ∀ k, s.pressed k = false := by decide

theorem witness_SetKeyWritesOneSlot : (15 : Nat) < 16 ∧ 16 ≤ (16 : Nat) ∧ (14 : Key).val ≠ 15 := by decide

theorem witness_LoadProgramCopiesOrRejects :
    0xFFE + ([1, 2] : List Byte).length ≤ 4096 ∧ 4096 < 0xFFF + ([1, 2] : List Byte).length := by decide

theorem witness_ResetReinitialises :
    let s := (loadProgram [1, 2] 0xFFE State.reset).1
    s.rom.base + s.rom.bytes.length ≤ memSize ∧ s.rom.base ≤ 0xFFF ∧ 0xFFF - s.rom.base < s.rom.bytes.length := by decide

/-- A machine constructed with another FONT and another STACK_DEPTH. -/
def other : State := State.constructed (Vector.replicate 80 0x11) 1

theorem witness_ResetAfterLoadChangesNothing :
    ∃ t, loadProgram [1, 2] 0xFFE (State.constructed (Vector.replicate 80 0x11) 1) = (t, .ok) := ⟨_, rfl⟩

theorem witness_ParametersNeverChange :
    (∃ t, HostCall.reset.apply 3 other = .next t) ∧ ∃ t, exec (.op2NNN 0x400) other = .next t := ⟨⟨_, rfl⟩, _, rfl⟩

theorem witness_ResetMeetsInvariant : 1 ≤ other.stackDepth := by decide

/-- A machine at the edges of the invariant: I at its last value, a full stack of the highest return address. -/
def edge : State := { machine 0x10FE 0xFFF [] with stack := List.replicate 16 0x1000 }

theorem witness_MachineInv : MachineInv edge where
  memory := by decide
  pcRange := by decide
  indexRange := by decide
  depth := by decide
  depthPositive := by decide
  returns := fun w hw => by rw [List.eq_of_mem_replicate hw]; decide
  faultIff := by decide
  faultShape := fun _ h => nomatch h
  romFits := by decide

theorem witness_StepKeepsInvariant : MachineInv edge ∧ ∃ t, step edge = .next t :=
  ⟨witness_MachineInv, _, rfl⟩

theorem witness_HostRunsKeepInvariant :
    MachineInv edge ∧ ∃ t, applyCalls 2 [.loadProgram [0x12, 0x00] 0x200, .run, .tick, .setKey 3 true] edge = .next t :=
  ⟨witness_MachineInv, _, rfl⟩

end Sys2Proof.Tests
end

section
/-! PROOFS. FONT and STACK_DEPTH are fixed at construction (00_scope.md R7, 70_reset_and_hazards.md R360, R362): each named
operation keeps both, so `perform` does, so every instruction, one execution, the quota loop and every host call do. -/

namespace Sys2Proof.Machine

/-- `t` has the FONT and the STACK_DEPTH of `s`. -/
def SameParameters (s t : State) : Prop := t.font = s.font ∧ t.stackDepth = s.stackDepth

theorem SameParameters.refl (s : State) : SameParameters s s := ⟨rfl, rfl⟩

theorem SameParameters.trans {s t u : State} (h : SameParameters s t) (h' : SameParameters t u) : SameParameters s u :=
  ⟨h'.1.trans h.1, h'.2.trans h.2⟩

/-! ## The operations that effects are made of -/

theorem skipIf_sameParameters (s : State) (c : Bool) : SameParameters s (s.skipIf c) :=
  ⟨s.skipIf_font c, s.skipIf_stackDepth c⟩

theorem push_sameParameters {s t : State} {w : Word} (h : push s w = .ok t) : SameParameters s t := by
  by_cases hfull : s.stack.length = s.stackDepth
  · rw [push_full s w hfull] at h
    cases h
  · rw [push_room s w hfull] at h
    cases h
    exact ⟨rfl, rfl⟩

theorem pop_sameParameters {s t : State} {w : Word} (h : pop s = .ok (w, t)) : SameParameters s t := by
  unfold pop at h
  split at h
  · cases h
  · cases h
    exact ⟨rfl, rfl⟩

theorem setRegsFrom_sameParameters (s : State) (k : Nat) (bs : List Byte) : SameParameters s (s.setRegsFrom k bs) := by
  obtain ⟨v, hv⟩ := State.setRegsFrom_frame bs s k
  rw [hv]
  exact ⟨rfl, rfl⟩

theorem writeBytes_sameParameters {s t : State} {a : Nat} {bs : List Byte} (h : writeBytes s a bs = .ok t) :
    SameParameters s t := by
  obtain ⟨m, rfl, -⟩ := writeBytes_next bs h
  exact ⟨rfl, rfl⟩

theorem countTimers_sameParameters (s : State) : SameParameters s s.countTimers := by
  rw [countTimers_eq]
  exact ⟨rfl, rfl⟩

/-! ## Instructions -/

/-- An instruction keeps the parameters when its effect, where it succeeds, does: the fetch's writes and the fault do anyway. -/
theorem perform_sameParameters {ins : Instr} {effect : State → Except Raise State} {s t : State}
    (h : perform ins effect s = .next t) (heffect : ∀ u v, effect u = .ok v → SameParameters u v) : SameParameters s t := by
  obtain ⟨u, hu, ht⟩ | ⟨e, -, ht⟩ := perform_cases h
  · cases ht
    have hfetch : SameParameters s (s.advance (encode ins)) := ⟨rfl, rfl⟩
    exact hfetch.trans (heffect _ _ hu)
  · cases ht
    exact ⟨rfl, rfl⟩

/-- The case of an effect that never raises. -/
theorem perform_total_sameParameters {ins : Instr} {effect : State → State} {s t : State}
    (h : perform ins (fun u => .ok (effect u)) s = .next t) (heffect : ∀ u, SameParameters u (effect u)) :
    SameParameters s t :=
  perform_sameParameters h fun u _ hv => Except.ok.inj hv ▸ heffect u

/-- An instruction that completes writes neither parameter, and a fault discards its writes. The cases: effects that never
raise, skips, block stores, and effects that first read a key, the stack or memory. -/
theorem exec_sameParameters {ins : Instr} {s t : State} (h : exec ins s = .next t) : SameParameters s t := by
  cases ins with
  | op00E0 | op1NNN | op6XNN | op7XNN | op8XY0 | op8XY1 | op8XY2 | op8XY3 | op8XY4 | op8XY5 | op8XY6 | op8XY7 | op8XYE
  | opANNN | opBNNN | opCXNN | opFX07 | opFX15 | opFX18 | opFX1E | opFX29 =>
    simp only [exec, exec00E0, exec1NNN, exec6XNN, exec7XNN, exec8XY0, exec8XY1, exec8XY2, exec8XY3, exec8XY4, exec8XY5,
      exec8XY6, exec8XY7, exec8XYE, execANNN, execBNNN, execCXNN, execFX07, execFX15, execFX18, execFX1E, execFX29] at h
    exact perform_total_sameParameters h fun _ => ⟨rfl, rfl⟩
  | op3XNN | op4XNN | op5XY0 | op9XY0 =>
    simp only [exec, exec3XNN, exec4XNN, exec5XY0, exec9XY0] at h
    exact perform_total_sameParameters h fun _ => skipIf_sameParameters ..
  | opFX33 | opFX55 =>
    simp only [exec, execFX33, execFX55] at h
    exact perform_sameParameters h fun _ _ => writeBytes_sameParameters
  | opEX9E | opEXA1 =>
    simp only [exec, execEX9E, execEXA1] at h
    refine perform_sameParameters h fun u v hv => ?_
    split at hv
    · cases hv
    · cases hv
      exact skipIf_sameParameters ..
  | op00EE =>
    rw [exec, exec00EE] at h
    refine perform_sameParameters h fun u v hv => ?_
    split at hv
    · cases hv
    · next w t hpop =>
      cases hv
      exact (pop_sameParameters hpop).trans ⟨rfl, rfl⟩
  | op2NNN =>
    rw [exec, exec2NNN] at h
    refine perform_sameParameters h fun u v hv => ?_
    split at hv
    · cases hv
    · next t hpush =>
      cases hv
      exact (push_sameParameters hpush).trans ⟨rfl, rfl⟩
  | opDXYN =>
    rw [exec, execDXYN] at h
    refine perform_sameParameters h fun u v hv => ?_
    split at hv
    · cases hv
    · cases hv
      exact ⟨rfl, rfl⟩
  | opFX65 =>
    rw [exec, execFX65] at h
    refine perform_sameParameters h fun u v hv => ?_
    split at hv
    · cases hv
    · cases hv
      exact setRegsFrom_sameParameters ..
  | opFX0A =>
    rw [exec, execFX0A] at h
    refine perform_sameParameters h fun u v hv => ?_
    split at hv <;> cases hv <;> exact ⟨rfl, rfl⟩

/-! ## The engine -/

theorem exec1_sameParameters {s t : State} (h : exec1 s = .next t) : SameParameters s t := by
  obtain ⟨e, -, he⟩ | ⟨op, -, -, he⟩ | ⟨op, ins, -, -, he⟩ := exec1_cases s
  · cases he.symm.trans h
    exact ⟨rfl, rfl⟩
  · cases he.symm.trans h
    exact ⟨rfl, rfl⟩
  · exact exec_sameParameters (he.symm.trans h)

theorem step_sameParameters {s t : State} (h : step s = .next t) : SameParameters s t := by
  by_cases hrun : s.run = .faulted
  · cases (step_faulted hrun).symm.trans h
    exact .refl s
  · exact exec1_sameParameters ((step_safe hrun).symm.trans h)

/-- All that one round of the quota loop can do before it answers a state. -/
theorem quotaLoop_succ_cases {n : Nat} {s t : State} (h : quotaLoop (n + 1) s = .next t) :
    (s.run = .faulted ∧ t = s) ∨ (s.safe ∧ ∃ u, exec1 s = .next u ∧ quotaLoop n u = .next t) := by
  by_cases hrun : s.run = .faulted
  · cases (quotaLoop_faulted hrun).symm.trans h
    exact .inl ⟨hrun, rfl⟩
  · refine .inr ⟨hrun, ?_⟩
    cases he : exec1 s with
    | next u => exact ⟨u, rfl, (quotaLoop_succ hrun he).symm.trans h⟩
    | fault r | refused r => cases hr : s.run <;> simp [quotaLoop, hr, he] at h hrun

/-- What every execution keeps, the quota loop keeps. -/
theorem quotaLoop_keeps {P : State → Prop} (hexec : ∀ u v, P u → exec1 u = .next v → P v) (n : Nat) {s t : State}
    (hs : P s) (h : quotaLoop n s = .next t) : P t := by
  induction n generalizing s with
  | zero =>
    cases h
    exact hs
  | succ n ih =>
    obtain ⟨-, rfl⟩ | ⟨-, u, he, hloop⟩ := quotaLoop_succ_cases h
    · exact hs
    · exact ih (hexec s u hs he) hloop

theorem quotaLoop_sameParameters (n : Nat) {s t : State} (h : quotaLoop n s = .next t) : SameParameters s t :=
  quotaLoop_keeps (P := SameParameters s) (fun _ _ hu he => hu.trans (exec1_sameParameters he)) n (.refl s) h

theorem tickWith_sameParameters {q : Nat} {s t : State} (h : tickWith q s = .next t) : SameParameters s t := by
  unfold tickWith at h
  split at h
  · cases h
    exact .refl s
  · cases h
    exact countTimers_sameParameters s
  · exact (countTimers_sameParameters s).trans (quotaLoop_sameParameters q h)

/-! ## The host's calls -/

theorem runOp_sameParameters (s : State) : SameParameters s (runOp s) := by
  unfold runOp
  split <;> exact ⟨rfl, rfl⟩

theorem stopOp_sameParameters (s : State) : SameParameters s (stopOp s) := by
  unfold stopOp
  split <;> exact ⟨rfl, rfl⟩

/-- `reset` builds the new state from the construction state of the same FONT and STACK_DEPTH. -/
theorem resetOp_sameParameters (s : State) : SameParameters s (resetOp s) := ⟨rfl, rfl⟩

theorem setKey_sameParameters {k : Nat} {b : Bool} {s t : State} (h : setKey k b s = .next t) : SameParameters s t := by
  obtain ⟨ks, rfl⟩ := setKey_next h
  exact ⟨rfl, rfl⟩

theorem loadProgram_sameParameters (bytes : List Byte) (base : Nat) (s : State) :
    SameParameters s (loadProgram bytes base s).1 := by
  obtain ⟨m, r, hload⟩ := loadProgram_state bytes base s
  rw [hload]
  exact ⟨rfl, rfl⟩

theorem apply_sameParameters {q : Nat} {c : HostCall} {s t : State} (h : c.apply q s = .next t) : SameParameters s t := by
  cases c with
  | reset => cases h; exact resetOp_sameParameters s
  | run => cases h; exact runOp_sameParameters s
  | stop => cases h; exact stopOp_sameParameters s
  | step => exact step_sameParameters h
  | tick => exact tickWith_sameParameters h
  | setKey k b => exact setKey_sameParameters h
  | loadProgram bytes base => cases h; exact loadProgram_sameParameters bytes base s

/-- Settles O55: the depth at `State.reset` is the default's, and every host call and every instruction keeps both
parameters. -/
theorem parametersNeverChange : Obligations.ParametersNeverChange := by
  unfold Obligations.ParametersNeverChange
  exact ⟨rfl, fun _ _ _ _ => apply_sameParameters, fun _ _ _ => exec_sameParameters⟩

end Sys2Proof.Machine
end

section
/-! PROOFS. What an instruction may write, said once: a table of the parts each instruction's effect writes, one rule per
operation of the state, and from these the two ways an instruction can end, in a state that differs in those parts only or in
a fault that changes Run and Fault only. -/

namespace Sys2Proof.Machine

/-! ## The effect of an instruction -/

/-- The effect that `exec` hands to `perform` for each instruction, in the table's order. -/
def effectOf : Instr → State → Except Raise State
  | .op00E0, s => .ok ({ s with fb := blankFramebuffer }.emit .framebufferChanged)
  | .op00EE, s =>
    match pop s with
    | .error e => .error e
    | .ok (w, t) => .ok (t.jump w)
  | .op1NNN nnn, s => .ok (s.jump (absolute nnn))
  | .op2NNN nnn, s =>
    match push s s.pc with
    | .error e => .error e
    | .ok t => .ok (t.jump (absolute nnn))
  | .op3XNN x nn, s => .ok (s.skipIf (s.reg x == nn))
  | .op4XNN x nn, s => .ok (s.skipIf (s.reg x != nn))
  | .op5XY0 x y, s => .ok (s.skipIf (s.reg x == s.reg y))
  | .op6XNN x nn, s => .ok (s.setReg x nn)
  | .op7XNN x nn, s => .ok (s.setReg x (sumByte (s.reg x) nn))
  | .op8XY0 x y, s => .ok (s.setReg x (s.reg y))
  | .op8XY1 x y, s => .ok (s.setReg x (s.reg x ||| s.reg y))
  | .op8XY2 x y, s => .ok (s.setReg x (s.reg x &&& s.reg y))
  | .op8XY3 x y, s => .ok (s.setReg x (s.reg x ^^^ s.reg y))
  | .op8XY4 x y, s => .ok (s.flagThenResult x y carryFlag sumByte)
  | .op8XY5 x y, s => .ok (s.flagThenResult x y noBorrowFlag differenceByte)
  | .op8XY6 x _, s => .ok (s.flagThenResult x x (fun a _ => lowBitFlag a) (fun a _ => a >>> (1 : Nat)))
  | .op8XY7 x y, s => .ok (s.flagThenResult x y (fun a b => noBorrowFlag b a) (fun a b => differenceByte b a))
  | .op8XYE x _, s => .ok (s.flagThenResult x x (fun a _ => highBitFlag a) (fun a _ => mod256 (a.toNat * 2)))
  | .op9XY0 x y, s => .ok (s.skipIf (s.reg x != s.reg y))
  | .opANNN nnn, s => .ok { s with i := absolute nnn }
  | .opBNNN nnn, s => .ok (s.jump (s.offsetTarget nnn))
  | .opCXNN x nn, s => .ok (s.drawn.setReg x (s.randomByte &&& nn))
  | .opDXYN x y n, s =>
    match readBytes s s.dataAddress n.toNat with
    | .error e => .error e
    | .ok bs =>
      let d := Drawing.rows (s.reg x).toNat (s.reg y).toNat bs (s.fb, false)
      .ok (({ s with fb := d.1 }.setReg VF (collisionFlag d.2)).emit .framebufferChanged)
  | .opEX9E x, s =>
    match keyOf (s.reg x) with
    | .error e => .error e
    | .ok k => .ok (s.skipIf (s.pressed k))
  | .opEXA1 x, s =>
    match keyOf (s.reg x) with
    | .error e => .error e
    | .ok k => .ok (s.skipIf (!s.pressed k))
  | .opFX07 x, s => .ok (s.setReg x s.dt)
  | .opFX0A x, s =>
    match s.pressedKeys with
    | [] => .ok s.rewind
    | k :: ks => .ok (s.drawn.setReg x (mod256 (s.selectKey k ks).val))
  | .opFX15 x, s => .ok { s with dt := s.reg x }
  | .opFX18 x, s => .ok { s with st := s.reg x }
  | .opFX1E x, s => .ok (s.addToIndex x)
  | .opFX29 x, s => .ok { s with i := glyphAddress (s.reg x) }
  | .opFX33 x, s => writeBytes s s.dataAddress (decimalDigits (s.reg x))
  | .opFX55 x, s => writeBytes s s.dataAddress (s.regBlock x)
  | .opFX65 x, s =>
    match readBytes s s.dataAddress (x.val + 1) with
    | .error e => .error e
    | .ok bs => .ok (s.setRegsFrom 0 bs)

/-- Every arm of `exec` is `perform` with the instruction's effect. -/
theorem exec_eq_perform (ins : Instr) (s : State) : exec ins s = perform ins (effectOf ins) s := by
  cases ins <;> rfl

/-- The two ways an instruction can end: in its effect's state, from the state the fetch left, or in the fault its effect
raises. -/
theorem exec_cases {ins : Instr} {s t : State} (h : exec ins s = .next t) :
    effectOf ins (s.advance (encode ins)) = .ok t ∨
    ∃ e, effectOf ins (s.advance (encode ins)) = .error e ∧ t = s.takeFault (some (encode ins)) e := by
  rw [exec_eq_perform] at h
  obtain ⟨u, hu, ht⟩ | ⟨e, he, ht⟩ := perform_cases h
  · cases ht
    exact .inl hu
  · cases ht
    exact .inr ⟨e, he, rfl⟩

/-! ## The parts an effect writes -/

/-- The parts that the effect of an instruction may write. The fetch's own writes of OPC and PC are not counted. -/
def mayWrite : Instr → Part → Prop
  | .op00E0, p => p = .emitted ∨ ∃ x y, p = .pixel x y
  | .op00EE, p | .op2NNN _, p => p = .pc ∨ p = .stack
  | .op1NNN _, p | .opBNNN _, p | .op3XNN _ _, p | .op4XNN _ _, p | .op5XY0 _ _, p | .op9XY0 _ _, p | .opEX9E _, p
  | .opEXA1 _, p => p = .pc
  | .op6XNN x _, p | .op7XNN x _, p | .op8XY0 x _, p | .op8XY1 x _, p | .op8XY2 x _, p | .op8XY3 x _, p
  | .opFX07 x, p => p = .v x
  | .op8XY4 x _, p | .op8XY5 x _, p | .op8XY6 x _, p | .op8XY7 x _, p | .op8XYE x _, p => p = .v VF ∨ p = .v x
  | .opANNN _, p | .opFX29 _, p => p = .i
  | .opCXNN x _, p => p = .draws ∨ p = .v x
  | .opDXYN _ _ _, p => p = .v VF ∨ p = .emitted ∨ ∃ x y, p = .pixel x y
  | .opFX0A x, p => p = .pc ∨ p = .draws ∨ p = .v x
  | .opFX15 _, p => p = .dt
  | .opFX18 _, p => p = .st
  | .opFX1E _, p => p = .v VF ∨ p = .i
  | .opFX33 _, p | .opFX55 _, p => ∃ a, p = .mem a
  | .opFX65 x, p => ∃ r ≤ x, p = .v r

/-! No effect writes OPC, the keypad, Run, Fault, Rom or STACK_DEPTH. -/

theorem not_mayWrite_keys (ins : Instr) : ¬ mayWrite ins .keys := by
  cases ins <;> simp [mayWrite]

theorem not_mayWrite_rom (ins : Instr) : ¬ mayWrite ins .rom := by
  cases ins <;> simp [mayWrite]

theorem not_mayWrite_stackDepth (ins : Instr) : ¬ mayWrite ins .stackDepth := by
  cases ins <;> simp [mayWrite]

theorem not_mayWrite_opc (ins : Instr) : ¬ mayWrite ins .opc := by
  cases ins <;> simp [mayWrite]

theorem not_mayWrite_run (ins : Instr) : ¬ mayWrite ins .run := by
  cases ins <;> simp [mayWrite]

theorem not_mayWrite_fault (ins : Instr) : ¬ mayWrite ins .fault := by
  cases ins <;> simp [mayWrite]

/-- From `s` to `t` only the parts `may` allows are written, and memory stays in canonical form. -/
structure Writes (may : Part → Prop) (s t : State) : Prop where
  frame : Frame may s t
  canonical : s.mem.wf → t.mem.wf

theorem Writes.refl (may : Part → Prop) (s : State) : Writes may s s := ⟨Frame.refl may s, id⟩

theorem Writes.trans {may : Part → Prop} {s t u : State} (h : Writes may s t) (h' : Writes may t u) : Writes may s u :=
  ⟨h.frame.trans h'.frame, h'.canonical ∘ h.canonical⟩

/-! ## One rule per operation -/

section
variable {may : Part → Prop} {s : State}

theorem writes_setReg {r : Reg} {b : Byte} (h : may (.v r)) : Writes may s (s.setReg r b) where
  frame p hp := by
    cases p with
    | v q => exact State.reg_setReg_ne s b fun e => hp (e ▸ h)
    | _ => rfl
  canonical := id

theorem writes_jump {w : Word} (h : may .pc) : Writes may s (s.jump w) where
  frame p hp := by
    cases p with
    | pc => exact absurd h hp
    | _ => rfl
  canonical := id

theorem writes_skipIf {c : Bool} (h : may .pc) : Writes may s (s.skipIf c) := by
  cases c with
  | false => exact .refl may s
  | true => exact writes_jump h

theorem writes_index {w : Word} (h : may .i) : Writes may s { s with i := w } where
  frame p hp := by
    cases p with
    | i => exact absurd h hp
    | _ => rfl
  canonical := id

theorem writes_dt {b : Byte} (h : may .dt) : Writes may s { s with dt := b } where
  frame p hp := by
    cases p with
    | dt => exact absurd h hp
    | _ => rfl
  canonical := id

theorem writes_st {b : Byte} (h : may .st) : Writes may s { s with st := b } where
  frame p hp := by
    cases p with
    | st => exact absurd h hp
    | _ => rfl
  canonical := id

theorem writes_stack {ws : List Word} (h : may .stack) : Writes may s { s with stack := ws } where
  frame p hp := by
    cases p with
    | stack => exact absurd h hp
    | _ => rfl
  canonical := id

theorem writes_emit {e : Event} (h : may .emitted) : Writes may s (s.emit e) where
  frame p hp := by
    cases p with
    | emitted => exact absurd h hp
    | _ => rfl
  canonical := id

theorem writes_drawn (h : may .draws) : Writes may s s.drawn where
  frame p hp := by
    cases p with
    | draws => exact absurd h hp
    | _ => rfl
  canonical := id

theorem writes_framebuffer {fb : Framebuffer} (h : ∀ x y, may (.pixel x y)) : Writes may s { s with fb := fb } where
  frame p hp := by
    cases p with
    | pixel x y => exact absurd (h x y) hp
    | _ => rfl
  canonical := id

theorem writes_memory {m : Memory} (h : ∀ a, may (.mem a)) (hwf : s.mem.wf → m.wf) : Writes may s { s with mem := m } where
  frame p hp := by
    cases p with
    | mem a => exact absurd (h a) hp
    | _ => rfl
  canonical := hwf

theorem writes_flagThenResult {x y : Reg} {flag result : Byte → Byte → Byte} (hVF : may (.v VF)) (hx : may (.v x)) :
    Writes may s (s.flagThenResult x y flag result) :=
  (writes_setReg hVF).trans (writes_setReg hx)

theorem writes_addToIndex {x : Reg} (hVF : may (.v VF)) (hi : may .i) : Writes may s (s.addToIndex x) :=
  (writes_setReg hVF).trans (writes_index hi)

/-- A block load from V0 up writes as many registers as there are bytes. -/
theorem writes_setRegsFrom {bs : List Byte} (h : ∀ r : Reg, r.val < bs.length → may (.v r)) :
    Writes may s (s.setRegsFrom 0 bs) := by
  obtain ⟨v, hv⟩ := State.setRegsFrom_frame bs s 0
  have hmem : (s.setRegsFrom 0 bs).mem = s.mem := by rw [hv]
  refine ⟨fun p hp => ?_, fun hwf => hmem ▸ hwf⟩
  cases p with
  | v r =>
    have hr : ¬ (0 ≤ r.val ∧ r.val - 0 < bs.length) := fun hlt => hp (h r hlt.2)
    exact (State.setRegsFrom_reg bs s 0 r).trans (dif_neg hr)
  | _ => rw [hv]; rfl

end

/-! ## The raises -/

/-- A raise names an address or key number exactly when it is an OutOfRangeAccess (60_exceptions.md R321). -/
def Raise.Shaped (e : Raise) : Prop := e.kind = .outOfRangeAccess ↔ e.addr.isSome

theorem shaped_outOfRange (a : Nat) : (outOfRange a).Shaped := by simp [Raise.Shaped, outOfRange]

theorem shaped_stackOverflow : Raise.Shaped ⟨.stackOverflow, none⟩ := by simp [Raise.Shaped]

theorem shaped_stackUnderflow : Raise.Shaped ⟨.stackUnderflow, none⟩ := by simp [Raise.Shaped]

theorem shaped_readBytes {s : State} {a n : Nat} {e : Raise} (h : readBytes s a n = .error e) : e.Shaped := by
  by_cases hfit : a + n ≤ memSize
  · cases (readBytes_inside n s a hfit).symm.trans h
  · cases n with
    | zero => cases h
    | succ n =>
      cases (readBytes_outside _ s a (by omega) n.succ_pos).symm.trans h
      exact shaped_outOfRange _

theorem readBytes_length {s : State} {a n : Nat} {bs : List Byte} (h : readBytes s a n = .ok bs) : bs.length = n := by
  by_cases hfit : a + n ≤ memSize
  · cases (readBytes_inside n s a hfit).symm.trans h
    simp
  · cases n with
    | zero => cases h; rfl
    | succ n => cases (readBytes_outside _ s a (by omega) n.succ_pos).symm.trans h

theorem shaped_writeBytes {s : State} {a : Nat} {bs : List Byte} {e : Raise} (h : writeBytes s a bs = .error e) :
    e.Shaped := by
  by_cases hfit : a + bs.length ≤ memSize
  · cases (writeBytes_inside bs s a hfit).symm.trans h
  · cases bs with
    | nil => cases h
    | cons b bs =>
      cases (writeBytes_outside _ s a (by omega) (List.cons_ne_nil b bs)).symm.trans h
      exact shaped_outOfRange _

theorem shaped_keyOf {b : Byte} {e : Raise} (h : keyOf b = .error e) : e.Shaped := by
  by_cases hb : b.toNat < 16
  · cases (keyOf_slot b hb).symm.trans h
  · cases (keyOf_outside b (by omega)).symm.trans h
    exact shaped_outOfRange _

/-- A fetch raises OutOfRangeAccess only. -/
theorem fetch_error {s : State} {e : Raise} (h : fetch s = .error e) : ∃ a, e = outOfRange a := by
  by_cases hpc : s.pc.toNat + 1 < memSize
  · cases (fetch_inside s hpc).symm.trans h
  · exact ⟨_, Except.error.inj (h.symm.trans (fetch_outside s (by omega)))⟩

/-- What `push` can answer. -/
theorem push_cases (s : State) (w : Word) :
    (s.stack.length ≠ s.stackDepth ∧ push s w = .ok { s with stack := s.stack ++ [w] }) ∨
    (s.stack.length = s.stackDepth ∧ push s w = .error ⟨.stackOverflow, none⟩) := by
  by_cases hfull : s.stack.length = s.stackDepth
  · exact .inr ⟨hfull, push_full s w hfull⟩
  · exact .inl ⟨hfull, push_room s w hfull⟩

/-- What `pop` can answer. -/
theorem pop_cases (s : State) :
    (∃ ws w, s.stack = ws ++ [w] ∧ pop s = .ok (w, { s with stack := ws })) ∨
    (s.stack = [] ∧ pop s = .error ⟨.stackUnderflow, none⟩) := by
  rcases List.eq_nil_or_concat s.stack with hnil | ⟨ws, w, hws⟩
  · exact .inr ⟨hnil, pop_empty s hnil⟩
  · rw [List.concat_eq_append] at hws
    exact .inl ⟨ws, w, hws, pop_entry s ws w hws⟩

/-! ## The two ways an instruction can end -/

/-- The answer of an effect is one an instruction may give: it writes only what `may` allows, or its raise has its shape. -/
def Permitted (may : Part → Prop) (s : State) : Except Raise State → Prop
  | .ok t => Writes may s t
  | .error e => e.Shaped

theorem permitted_writeBytes {may : Part → Prop} (h : ∀ a, may (.mem a)) (s : State) (a : Nat) (bs : List Byte) :
    Permitted may s (writeBytes s a bs) := by
  cases hw : writeBytes s a bs with
  | ok t =>
    obtain ⟨m, rfl, hwf⟩ := writeBytes_next bs hw
    exact writes_memory h hwf
  | error e => exact shaped_writeBytes hw

/-- No effect writes more than the table allows. The cases: effects that never raise, skips, block stores, and effects that
first read a key, the stack or memory. -/
theorem effectOf_permitted (ins : Instr) (u : State) : Permitted (mayWrite ins) u (effectOf ins u) := by
  cases ins with
  | op6XNN | op7XNN | op8XY0 | op8XY1 | op8XY2 | op8XY3 | opFX07 => exact writes_setReg rfl
  | op8XY4 | op8XY5 | op8XY6 | op8XY7 | op8XYE => exact writes_flagThenResult (.inl rfl) (.inr rfl)
  | op1NNN | opBNNN => exact writes_jump rfl
  | op3XNN | op4XNN | op5XY0 | op9XY0 => exact writes_skipIf rfl
  | opANNN | opFX29 => exact writes_index rfl
  | opFX15 => exact writes_dt rfl
  | opFX18 => exact writes_st rfl
  | opFX1E => exact writes_addToIndex (.inl rfl) (.inr rfl)
  | opCXNN => exact (writes_drawn (.inl rfl)).trans (writes_setReg (.inr rfl))
  | opFX33 | opFX55 => exact permitted_writeBytes (fun a => ⟨a, rfl⟩) ..
  | op00E0 => exact (writes_framebuffer fun x y => .inr ⟨x, y, rfl⟩).trans (writes_emit (.inl rfl))
  | op00EE =>
    obtain ⟨ws, w, -, hpop⟩ | ⟨-, hpop⟩ := pop_cases u
    · rw [effectOf, hpop]
      exact (writes_stack (.inr rfl)).trans (writes_jump (.inl rfl))
    · rw [effectOf, hpop]
      exact shaped_stackUnderflow
  | op2NNN =>
    obtain ⟨-, hpush⟩ | ⟨-, hpush⟩ := push_cases u u.pc
    · rw [effectOf, hpush]
      exact (writes_stack (.inr rfl)).trans (writes_jump (.inl rfl))
    · rw [effectOf, hpush]
      exact shaped_stackOverflow
  | opEX9E | opEXA1 =>
    rw [effectOf]
    split
    · next e he => exact shaped_keyOf he
    · exact writes_skipIf rfl
  | opDXYN =>
    rw [effectOf]
    split
    · next e he => exact shaped_readBytes he
    · exact ((writes_framebuffer fun x y => .inr (.inr ⟨x, y, rfl⟩)).trans (writes_setReg (.inl rfl))).trans
        (writes_emit (.inr (.inl rfl)))
  | opFX65 x =>
    rw [effectOf]
    split
    · next e he => exact shaped_readBytes he
    · next bs hbs =>
      refine writes_setRegsFrom fun r hr => ⟨r, ?_, rfl⟩
      rw [readBytes_length hbs] at hr
      exact Nat.le_of_lt_succ hr
  | opFX0A =>
    rw [effectOf]
    split
    · exact writes_jump (.inl rfl)
    · exact (writes_drawn (.inr (.inl rfl))).trans (writes_setReg (.inr (.inr rfl)))

theorem effectOf_writes {ins : Instr} {u v : State} (h : effectOf ins u = .ok v) : Writes (mayWrite ins) u v := by
  have hp := effectOf_permitted ins u
  rwa [h] at hp

theorem effectOf_shaped {ins : Instr} {u : State} {e : Raise} (h : effectOf ins u = .error e) : e.Shaped := by
  have hp := effectOf_permitted ins u
  rwa [h] at hp

/-- An instruction that completes has written nothing but the fetch's OPC and PC and the parts of the table; one that faults
has changed Run and Fault only. -/
theorem exec_writes {ins : Instr} {s t : State} (h : exec ins s = .next t) :
    Writes (mayWrite ins) (s.advance (encode ins)) t ∨
    ∃ e : Raise, e.Shaped ∧ t = s.takeFault (some (encode ins)) e := by
  obtain he | ⟨e, he, ht⟩ := exec_cases h
  · exact .inl (effectOf_writes he)
  · exact .inr ⟨e, effectOf_shaped he, ht⟩

end Sys2Proof.Machine
end

section
/-! PROOFS. The rules of 10_state.md about one part of the state each, read off the table of what an instruction may write. -/

namespace Sys2Proof.Machine

/-! ## What can change a part -/

/-- The parts that every instruction can change: the fetch writes OPC and PC, a fault writes Run and Fault. -/
def engineWrites (p : Part) : Prop := fetchParts p ∨ p = .run ∨ p = .fault

@[simp] theorem engineWrites_iff (p : Part) : engineWrites p ↔ p = .opc ∨ p = .pc ∨ p = .run ∨ p = .fault := by
  simp [engineWrites, fetchParts, or_assoc]

theorem Same.refl (p : Part) (s : State) : Same p s s := by
  cases p <;> rfl

theorem advance_frame (s : State) (op : Word) : Frame fetchParts s (s.advance op) := by
  intro p hp
  cases p with
  | opc => exact absurd (.inl rfl) hp
  | pc => exact absurd (.inr rfl) hp
  | _ => rfl

theorem takeFault_frame (s : State) (op : Option Word) (e : Raise) :
    Frame (fun p => p = .run ∨ p = .fault) s (s.takeFault op e) := by
  intro p hp
  cases p with
  | run => exact absurd (.inl rfl) hp
  | fault => exact absurd (.inr rfl) hp
  | _ => rfl

/-- An instruction that changes a part the engine does not write may write it by the table. -/
theorem exec_changes {ins : Instr} {s t : State} {p : Part} (h : exec ins s = .next t) (hengine : ¬ engineWrites p)
    (hne : ¬ Same p s t) : mayWrite ins p := by
  by_contra hp
  obtain hw | ⟨e, -, rfl⟩ := exec_writes h
  · exact hne ((advance_frame s _ p fun hf => hengine (.inl hf)).trans (hw.frame p hp))
  · exact hne (takeFault_frame s _ e p fun hf => hengine (.inr hf))

theorem exec1_changes {s t : State} {p : Part} (h : exec1 s = .next t) (hengine : ¬ engineWrites p) (hne : ¬ Same p s t) :
    ∃ op ins, fetch s = .ok op ∧ decode op = .ok ins ∧ mayWrite ins p := by
  obtain ⟨e, -, he⟩ | ⟨op, -, -, he⟩ | ⟨op, ins, hf, hd, he⟩ := exec1_cases s
  · cases he.symm.trans h
    exact absurd (takeFault_frame s _ e p fun hp => hengine (.inr hp)) hne
  · cases he.symm.trans h
    exact absurd (advance_frame s op p fun hp => hengine (.inl hp)) hne
  · exact ⟨op, ins, hf, hd, exec_changes (he.symm.trans h) hengine hne⟩

/-- A step changes nothing of a Faulted machine, and is one execution of any other. -/
theorem step_cases {s t : State} (h : step s = .next t) : t = s ∨ (s.safe ∧ exec1 s = .next t) := by
  by_cases hrun : s.run = .faulted
  · exact .inl (Host.Outcome.next.inj (h.symm.trans (step_faulted hrun)))
  · exact .inr ⟨hrun, (step_safe hrun).symm.trans h⟩

theorem step_changes {s t : State} {p : Part} (h : step s = .next t) (hengine : ¬ engineWrites p) (hne : ¬ Same p s t) :
    ∃ op ins, fetch s = .ok op ∧ decode op = .ok ins ∧ mayWrite ins p := by
  obtain rfl | ⟨-, he⟩ := step_cases h
  · exact absurd (Same.refl p t) hne
  · exact exec1_changes he hengine hne

/-- A part that no instruction, no fetch and no fault writes is the same after one execution. -/
theorem exec1_same {s t : State} {p : Part} (h : exec1 s = .next t) (hengine : ¬ engineWrites p)
    (hins : ∀ ins, ¬ mayWrite ins p) : Same p s t := by
  by_contra hne
  obtain ⟨-, ins, -, -, hw⟩ := exec1_changes h hengine hne
  exact hins ins hw

/-! ## VF (10_state.md R32) -/

/-- Settles O38: the instructions whose row of the table has VF, which is one of the flag writers' parts, and the others' only
where their destination is VF. -/
theorem onlyListedInstructionsWriteVF : Obligations.OnlyListedInstructionsWriteVF := by
  unfold Obligations.OnlyListedInstructionsWriteVF
  intro ins s t h hne
  have hw : mayWrite ins (.v VF) := exec_changes h (by simp) hne
  cases ins with
  | op8XY4 x y | op8XY5 x y | op8XY6 x y | op8XY7 x y | op8XYE x y => exact .inl ⟨x, y, by simp⟩
  | opDXYN x y n => exact .inr (.inl ⟨x, y, n, rfl⟩)
  | opFX1E x => exact .inr (.inr (.inl ⟨x, rfl⟩))
  | op6XNN x nn | op7XNN x nn | opCXNN x nn =>
    have hx : VF = x := by simpa [mayWrite] using hw
    exact .inr (.inr (.inr (.inl ⟨nn, by simp [hx]⟩)))
  | op8XY0 x y | op8XY1 x y | op8XY2 x y | op8XY3 x y =>
    have hx : VF = x := by simpa [mayWrite] using hw
    exact .inr (.inr (.inr (.inr (.inl ⟨y, by simp [hx]⟩))))
  | opFX07 x | opFX0A x =>
    have hx : VF = x := by simpa [mayWrite] using hw
    simp [hx]
  | opFX65 x =>
    have hx : VF ≤ x := by simpa [mayWrite] using hw
    have hx : VF = x := le_antisymm hx (Fin.le_last x)
    simp [hx]
  | _ => simp [mayWrite] at hw

/-! ## PC (10_state.md R34) -/

/-- Settles O39: an instruction that completes starts from the state the fetch left, whose PC is 2 further, and only the
listed ones have PC in their row of the table. -/
theorem onlyListedInstructionsRedirectPC : Obligations.OnlyListedInstructionsRedirectPC := by
  unfold Obligations.OnlyListedInstructionsRedirectPC
  refine ⟨rfl, fun _ => rfl, fun ins s t _ h ht hne => ?_⟩
  obtain hw | ⟨e, -, rfl⟩ := exec_writes h
  · have hpc : mayWrite ins .pc := by
      by_contra hp
      exact hne (hw.frame .pc hp)
    cases ins with
    | op00EE => exact .inl rfl
    | op1NNN nnn | op2NNN nnn | opBNNN nnn => exact .inr (.inl ⟨nnn, by simp⟩)
    | op3XNN x nn | op4XNN x nn => exact .inr (.inr (.inl ⟨x, nn, by simp⟩))
    | op5XY0 x y | op9XY0 x y => exact .inr (.inr (.inr (.inl ⟨x, y, by simp⟩)))
    | opEX9E x | opEXA1 x | opFX0A x => exact .inr (.inr (.inr (.inr ⟨x, by simp⟩)))
    | _ => simp [mayWrite] at hpc
  · exact absurd rfl ht

/-! ## I (10_state.md R36) -/

/-- Whatever an instruction writes to I is at most 0xFFF (43_index_memory.md R240, R242, R244). -/
theorem effectOf_index {ins : Instr} {u v : State} (h : effectOf ins u = .ok v) (hw : mayWrite ins .i) :
    v.i.toNat ≤ 0xFFF := by
  cases ins with
  | opANNN nnn =>
    cases h
    have := nnn.isLt
    simp only [absolute_toNat]
    omega
  | opFX1E x =>
    cases h
    simp only [State.addToIndex, mod4096_toNat]
    omega
  | opFX29 x =>
    cases h
    have := (u.reg x).isLt
    simp only [glyphAddress_toNat]
    omega
  | _ => simp [mayWrite] at hw

theorem exec_index {ins : Instr} {s t : State} (h : exec ins s = .next t) :
    t.i = s.i ∨ (mayWrite ins .i ∧ t.i.toNat ≤ 0xFFF) := by
  by_cases hi : t.i = s.i
  · exact .inl hi
  · have hw : mayWrite ins .i := exec_changes h (by simp) hi
    obtain he | ⟨e, -, rfl⟩ := exec_cases h
    · exact .inr ⟨hw, effectOf_index he hw⟩
    · exact .inl rfl

/-- Settles O40: I is in the table's row of ANNN, FX1E and FX29 only, and the three values are at most 0xFFF. -/
theorem onlyListedInstructionsWriteIndex : Obligations.OnlyListedInstructionsWriteIndex := by
  unfold Obligations.OnlyListedInstructionsWriteIndex
  intro ins s t h hne
  obtain hi | ⟨hw, hle⟩ := exec_index h
  · exact absurd hi hne
  · refine ⟨?_, hle⟩
    cases ins with
    | opANNN nnn => exact .inl ⟨nnn, rfl⟩
    | opFX1E x | opFX29 x => exact .inr ⟨x, by simp⟩
    | _ => simp [mayWrite] at hw

/-! ## The timers, the keypad, Rom and the events (10_state.md R37, R38, R42) -/

/-- An effect emits nothing, or the one event FramebufferChanged. -/
theorem effectOf_emitted {ins : Instr} {u v : State} (h : effectOf ins u = .ok v) :
    v.emitted = u.emitted ∨ v.emitted = u.emitted ++ [.framebufferChanged] := by
  cases ins with
  | op00E0 =>
    cases h
    exact .inr rfl
  | opDXYN =>
    rw [effectOf] at h
    split at h
    · cases h
    · cases h
      exact .inr rfl
  | _ => exact .inl ((effectOf_writes h).frame .emitted (by simp [mayWrite]))

theorem exec1_emitted {s t : State} (h : exec1 s = .next t) :
    t.emitted = s.emitted ∨ t.emitted = s.emitted ++ [.framebufferChanged] := by
  obtain ⟨e, -, he⟩ | ⟨op, -, -, he⟩ | ⟨op, ins, -, -, he⟩ := exec1_cases s
  · cases he.symm.trans h
    exact .inl rfl
  · cases he.symm.trans h
    exact .inl rfl
  · obtain hok | ⟨e, -, rfl⟩ := exec_cases (he.symm.trans h)
    · have hev := effectOf_emitted hok
      exact hev
    · exact .inl rfl

/-- `t` has the keypad and the program image of `s`. -/
def SameKeysAndRom (s t : State) : Prop := t.keys = s.keys ∧ t.rom = s.rom

theorem exec1_sameKeysAndRom {s t : State} (h : exec1 s = .next t) : SameKeysAndRom s t :=
  ⟨exec1_same (p := .keys) h (by simp) not_mayWrite_keys,
    exec1_same (p := .rom) h (by simp) not_mayWrite_rom⟩

theorem quotaLoop_sameKeysAndRom {n : Nat} {s t : State} (h : quotaLoop n s = .next t) : SameKeysAndRom s t :=
  quotaLoop_keeps (P := SameKeysAndRom s)
    (fun _ _ hu he => ⟨(exec1_sameKeysAndRom he).1.trans hu.1, (exec1_sameKeysAndRom he).2.trans hu.2⟩) n ⟨rfl, rfl⟩ h

theorem tickWith_sameKeysAndRom {q : Nat} {s t : State} (h : tickWith q s = .next t) : SameKeysAndRom s t := by
  have hcount : SameKeysAndRom s s.countTimers := by
    rw [countTimers_eq]
    exact ⟨rfl, rfl⟩
  unfold tickWith at h
  split at h
  · cases h
    exact ⟨rfl, rfl⟩
  · cases h
    exact hcount
  · obtain ⟨hkeys, hrom⟩ := quotaLoop_sameKeysAndRom h
    exact ⟨hkeys.trans hcount.1, hrom.trans hcount.2⟩

/-- Settles O41: DT is in the table's row of FX15 only and ST in that of FX18 only, the keypad and Rom in none, and the events
are those of `effectOf_emitted`. -/
theorem stepNeverCountsTimers : Obligations.StepNeverCountsTimers := by
  unfold Obligations.StepNeverCountsTimers
  refine ⟨fun q s t h => tickWith_sameKeysAndRom h, fun s t h => ⟨fun hne => ?_, fun hne => ?_, ?_⟩⟩
  · obtain ⟨op, ins, hf, hd, hw⟩ := step_changes (p := .dt) h (by simp) hne
    cases ins with
    | opFX15 x => exact ⟨op, x, hf, hd⟩
    | _ => simp [mayWrite] at hw
  · obtain ⟨op, ins, hf, hd, hw⟩ := step_changes (p := .st) h (by simp) hne
    cases ins with
    | opFX18 x => exact ⟨op, x, hf, hd⟩
    | _ => simp [mayWrite] at hw
  · obtain rfl | ⟨-, he⟩ := step_cases h
    · exact ⟨rfl, rfl, .inl rfl⟩
    · obtain ⟨hkeys, hrom⟩ := exec1_sameKeysAndRom he
      exact ⟨hkeys, hrom, exec1_emitted he⟩

/-! ## The framebuffer and the call stack (10_state.md R40, R41, R44) -/

/-- The host's calls that run no instruction and do not reset write Run, the keypad, memory and Rom only. -/
theorem apply_cases {q : Nat} {c : HostCall} {s t : State} (h : c.apply q s = .next t) :
    (c = .reset ∨ c = .step ∨ c = .tick) ∨
    ∃ r ks m rom, t = { s with run := r, keys := ks, mem := m, rom := rom } := by
  cases c with
  | reset => exact .inl (.inl rfl)
  | step => exact .inl (.inr (.inl rfl))
  | tick => exact .inl (.inr (.inr rfl))
  | run =>
    cases h
    rw [runOp]
    split <;> exact .inr ⟨_, _, _, _, rfl⟩
  | stop =>
    cases h
    rw [stopOp]
    split <;> exact .inr ⟨_, _, _, _, rfl⟩
  | setKey k b =>
    obtain ⟨ks, rfl⟩ := setKey_next h
    exact .inr ⟨_, ks, _, _, rfl⟩
  | loadProgram bytes base =>
    obtain ⟨m, rom, hload⟩ := loadProgram_state bytes base s
    rw [HostCall.apply, hload] at h
    cases h
    exact .inr ⟨_, _, m, rom, rfl⟩

/-- Settles O42: a framebuffer that differs differs in a pixel, and pixels are in the table's rows of 00E0 and DXYN only. -/
theorem onlyClearAndDrawChangePixels : Obligations.OnlyClearAndDrawChangePixels := by
  unfold Obligations.OnlyClearAndDrawChangePixels
  refine ⟨pixel_blank, fun _ => pixel_blank, fun ins s t h hne => ?_, fun q c s t h hne => ?_⟩
  · obtain ⟨x, y, hxy⟩ : ∃ x y, ¬ Same (.pixel x y) s t := by
      by_contra hall
      push Not at hall
      exact hne (framebuffer_ext hall)
    have hw : mayWrite ins (.pixel x y) := exec_changes h (by simp) hxy
    cases ins with
    | op00E0 => exact .inl rfl
    | opDXYN x y n => exact .inr ⟨x, y, n, rfl⟩
    | _ => simp [mayWrite] at hw
  · obtain hc | ⟨r, ks, m, rom, rfl⟩ := apply_cases h
    · exact hc
    · exact absurd rfl hne

/-- What an effect does to the call stack: nothing, but for the entry 2NNN adds where there is room and the entry 00EE takes. -/
theorem effectOf_stack {ins : Instr} {u v : State} (h : effectOf ins u = .ok v) :
    v.stack = u.stack ∨
    ((∃ nnn, ins = .op2NNN nnn) ∧ u.stack.length ≠ u.stackDepth ∧ v.stack = u.stack ++ [u.pc]) ∨
    (ins = .op00EE ∧ ∃ w, u.stack = v.stack ++ [w]) := by
  cases ins with
  | op2NNN nnn =>
    obtain ⟨hroom, hpush⟩ | ⟨-, hpush⟩ := push_cases u u.pc
    · rw [effectOf, hpush] at h
      cases h
      exact .inr (.inl ⟨⟨nnn, rfl⟩, hroom, rfl⟩)
    · rw [effectOf, hpush] at h
      cases h
  | op00EE =>
    obtain ⟨ws, w, hws, hpop⟩ | ⟨-, hpop⟩ := pop_cases u
    · rw [effectOf, hpop] at h
      cases h
      exact .inr (.inr ⟨rfl, w, hws⟩)
    · rw [effectOf, hpop] at h
      cases h
  | _ => exact .inl ((effectOf_writes h).frame .stack (by simp [mayWrite]))

/-- Settles O44: the three cases of `effectOf_stack`, from the state the fetch left; a fault keeps the stack. -/
theorem onlyCallAndReturnChangeStack : Obligations.OnlyCallAndReturnChangeStack := by
  unfold Obligations.OnlyCallAndReturnChangeStack
  refine ⟨fun ins s t h hne => ?_, fun q c s t h hne => ?_⟩
  · obtain hok | ⟨e, -, rfl⟩ := exec_cases h
    · obtain hsame | ⟨hcall, -, hpush⟩ | ⟨hret, w, hpop⟩ := effectOf_stack hok
      · exact absurd hsame hne
      · exact .inl ⟨hcall, hpush⟩
      · exact .inr ⟨hret, w, hpop⟩
    · exact absurd rfl hne
  · obtain hc | ⟨r, ks, m, rom, rfl⟩ := apply_cases h
    · exact hc
    · exact absurd rfl hne

end Sys2Proof.Machine
end

section
/-! PROOFS. Every step keeps the invariant: the fetch leaves PC at most 0x1000, an effect keeps each clause from there, and a
fault writes a record of the right shape. -/

namespace Sys2Proof.Machine

/-! ## Where an effect can leave PC (10_state.md R35) -/

theorem pc_add_two {a : Word} (h : a.toNat ≤ 0x10FE) : (a + 2).toNat = a.toNat + 2 := by bv_omega

theorem pc_sub_two {a : Word} (h : 2 ≤ a.toNat) : (a - 2).toNat = a.toNat - 2 := by bv_omega

theorem skipIf_pc_cases (u : State) (c : Bool) : (u.skipIf c).pc = u.pc ∨ (u.skipIf c).pc = u.pc + 2 := by
  cases c with
  | false => exact .inl rfl
  | true => exact .inr rfl

/-- An effect leaves PC alone, skips, goes back, jumps to at most 0x10FE, or returns to an address on the stack. -/
theorem effectOf_pc {ins : Instr} {u v : State} (h : effectOf ins u = .ok v) :
    (v.pc = u.pc ∨ v.pc = u.pc + 2) ∨ v.pc = u.pc - 2 ∨ v.pc.toNat ≤ 0x10FE ∨ v.pc ∈ u.stack := by
  cases ins with
  | op1NNN nnn =>
    cases h
    have := nnn.isLt
    refine .inr (.inr (.inl ?_))
    rw [State.jump_pc, absolute_toNat]
    omega
  | opBNNN nnn =>
    cases h
    have := nnn.isLt
    have := (u.reg V0).isLt
    refine .inr (.inr (.inl ?_))
    rw [State.jump_pc, offsetTarget_toNat]
    omega
  | op2NNN nnn =>
    obtain ⟨-, hpush⟩ | ⟨-, hpush⟩ := push_cases u u.pc
    · rw [effectOf, hpush] at h
      cases h
      have := nnn.isLt
      refine .inr (.inr (.inl ?_))
      rw [State.jump_pc, absolute_toNat]
      omega
    · rw [effectOf, hpush] at h
      cases h
  | op00EE =>
    obtain ⟨ws, w, hws, hpop⟩ | ⟨-, hpop⟩ := pop_cases u
    · rw [effectOf, hpop] at h
      cases h
      exact .inr (.inr (.inr (by simp [hws])))
    · rw [effectOf, hpop] at h
      cases h
  | op3XNN | op4XNN | op5XY0 | op9XY0 =>
    cases h
    exact .inl (skipIf_pc_cases ..)
  | opEX9E | opEXA1 =>
    rw [effectOf] at h
    split at h
    · cases h
    · cases h
      exact .inl (skipIf_pc_cases ..)
  | opFX0A =>
    rw [effectOf] at h
    split at h
    · cases h
      exact .inr (.inl rfl)
    · cases h
      exact .inl (.inl rfl)
  | _ => exact .inl (.inl ((effectOf_writes h).frame .pc (by simp [mayWrite])))

/-! ## The invariant, part by part -/

theorem MachineInv.fault_eq_none {s : State} (hs : MachineInv s) (hsafe : s.safe) : s.fault = none := by
  rw [← Option.not_isSome_iff_eq_none, ← hs.faultIff]
  exact hsafe

/-- The fetch of a word keeps the invariant: it found both bytes in memory. -/
theorem advance_inv {s : State} {op w : Word} (hs : MachineInv s) (hsafe : s.safe) (hf : fetch s = .ok op) :
    MachineInv (s.advance w) where
  memory := hs.memory
  pcRange := by
    have := fetch_pc hf
    rw [State.advance_pc, pc_add_two (by omega)]
    omega
  indexRange := hs.indexRange
  depth := hs.depth
  depthPositive := hs.depthPositive
  returns := hs.returns
  faultIff := hs.faultIff
  faultShape r hr := by
    rw [State.advance_fault, hs.fault_eq_none hsafe] at hr
    cases hr
  romFits := hs.romFits

/-- A fault taken from a state that meets the invariant leaves one, with a record of the right shape. -/
theorem takeFault_inv {s : State} {op : Option Word} {e : Raise} (hs : MachineInv s) (he : e.Shaped)
    (hop : op = none → e.kind = .outOfRangeAccess) : MachineInv (s.takeFault op e) where
  memory := hs.memory
  pcRange := hs.pcRange
  indexRange := hs.indexRange
  depth := hs.depth
  depthPositive := hs.depthPositive
  returns := hs.returns
  faultIff := by simp
  faultShape r hr := by
    cases hr
    exact ⟨he, hop, rfl⟩
  romFits := hs.romFits

theorem effectOf_pcRange {ins : Instr} {u v : State} (hu : MachineInv u) (hlow : 2 ≤ u.pc.toNat)
    (hhigh : u.pc.toNat ≤ 0x1000) (h : effectOf ins u = .ok v) : v.pc.toNat ≤ 0x10FE := by
  obtain (hpc | hpc) | hpc | hpc | hpc := effectOf_pc h
  · rw [hpc]
    omega
  · rw [hpc, pc_add_two (by omega)]
    omega
  · rw [hpc, pc_sub_two hlow]
    omega
  · exact hpc
  · have := hu.returns _ hpc
    omega

theorem effectOf_indexRange {ins : Instr} {u v : State} (hu : MachineInv u) (h : effectOf ins u = .ok v) :
    v.i.toNat ≤ 0xFFF := by
  by_cases hw : mayWrite ins .i
  · exact effectOf_index h hw
  · have hi : v.i = u.i := (effectOf_writes h).frame .i hw
    rw [hi]
    exact hu.indexRange

theorem effectOf_depth {ins : Instr} {u v : State} (hu : MachineInv u) (h : effectOf ins u = .ok v) :
    v.stack.length ≤ u.stackDepth := by
  have hdepth := hu.depth
  obtain hstack | ⟨-, hroom, hstack⟩ | ⟨-, w, hstack⟩ := effectOf_stack h
  · rwa [hstack]
  · rw [hstack, List.length_append, List.length_singleton]
    omega
  · rw [hstack, List.length_append] at hdepth
    omega

theorem effectOf_returns {ins : Instr} {u v : State} (hu : MachineInv u) (hhigh : u.pc.toNat ≤ 0x1000)
    (h : effectOf ins u = .ok v) : ∀ w ∈ v.stack, w.toNat ≤ 0x1000 := by
  intro w hw
  obtain hstack | ⟨-, -, hstack⟩ | ⟨-, w', hstack⟩ := effectOf_stack h
  · exact hu.returns w (hstack ▸ hw)
  · rw [hstack, List.mem_append, List.mem_singleton] at hw
    obtain hw | rfl := hw
    · exact hu.returns w hw
    · exact hhigh
  · exact hu.returns w (hstack ▸ List.mem_append_left _ hw)

/-- An effect that succeeds keeps the invariant, from a state that a fetch left with no fault. -/
theorem effectOf_inv {ins : Instr} {u v : State} (hu : MachineInv u) (hsafe : u.safe) (hlow : 2 ≤ u.pc.toNat)
    (hhigh : u.pc.toNat ≤ 0x1000) (h : effectOf ins u = .ok v) : MachineInv v := by
  have hw := effectOf_writes h
  have hrun : v.run = u.run := hw.frame .run (not_mayWrite_run ins)
  have hfault : v.fault = u.fault := hw.frame .fault (not_mayWrite_fault ins)
  have hrom : v.rom = u.rom := hw.frame .rom (not_mayWrite_rom ins)
  have hstackDepth : v.stackDepth = u.stackDepth := hw.frame .stackDepth (not_mayWrite_stackDepth ins)
  exact
    { memory := hw.canonical hu.memory
      pcRange := effectOf_pcRange hu hlow hhigh h
      indexRange := effectOf_indexRange hu h
      depth := hstackDepth ▸ effectOf_depth hu h
      depthPositive := hstackDepth ▸ hu.depthPositive
      returns := effectOf_returns hu hhigh h
      faultIff := by rw [hrun, hfault, hu.faultIff]
      faultShape := fun r hr => by
        rw [hfault, hu.fault_eq_none hsafe] at hr
        cases hr
      romFits := hrom ▸ hu.romFits }

theorem exec_inv {ins : Instr} {s t : State} {op : Word} (hs : MachineInv s) (hsafe : s.safe) (hf : fetch s = .ok op)
    (h : exec ins s = .next t) : MachineInv t := by
  obtain hok | ⟨e, he, rfl⟩ := exec_cases h
  · have hfetch := fetch_pc hf
    have hpc : (s.advance (encode ins)).pc.toNat = s.pc.toNat + 2 := pc_add_two (by omega)
    exact effectOf_inv (advance_inv hs hsafe hf) hsafe (by omega) (by omega) hok
  · exact takeFault_inv hs (effectOf_shaped he) nofun

theorem exec1_inv {s t : State} (hs : MachineInv s) (hsafe : s.safe) (h : exec1 s = .next t) : MachineInv t := by
  obtain ⟨e, hf, he⟩ | ⟨op, hf, -, he⟩ | ⟨op, ins, hf, -, he⟩ := exec1_cases s
  · cases he.symm.trans h
    obtain ⟨a, rfl⟩ := fetch_error hf
    exact takeFault_inv hs (shaped_outOfRange a) fun _ => rfl
  · cases he.symm.trans h
    exact advance_inv hs hsafe hf
  · exact exec_inv hs hsafe hf (he.symm.trans h)

/-- Settles O57: a step of a Faulted machine changes nothing, and one execution keeps the invariant. -/
theorem stepKeepsInvariant : Obligations.StepKeepsInvariant := by
  unfold Obligations.StepKeepsInvariant
  intro s t hs h
  obtain rfl | ⟨hsafe, he⟩ := step_cases h
  · exact hs
  · exact exec1_inv hs hsafe he

/-! ## The invariant at construction -/

theorem reset_inv : MachineInv State.reset where
  memory := Memory.wf_nil
  pcRange := by decide
  indexRange := by decide
  depth := by decide
  depthPositive := by decide
  returns _ hw := nomatch hw
  faultIff := by decide
  faultShape _ hr := nomatch hr
  romFits := by decide

/-- The construction state is the reset state but for memory, FONT and STACK_DEPTH. -/
theorem constructed_inv (font : Vector Byte 80) {depth : Nat} (hdepth : 1 ≤ depth) :
    MachineInv (State.constructed font depth) where
  memory := State.constructed_wf font depth
  pcRange := reset_inv.pcRange
  indexRange := reset_inv.indexRange
  depth := Nat.zero_le depth
  depthPositive := hdepth
  returns := reset_inv.returns
  faultIff := reset_inv.faultIff
  faultShape := reset_inv.faultShape
  romFits := reset_inv.romFits

/-- Settles O56. -/
theorem resetMeetsInvariant : Obligations.ResetMeetsInvariant := by
  unfold Obligations.ResetMeetsInvariant
  exact ⟨reset_inv, fun font _ => constructed_inv font⟩

end Sys2Proof.Machine
end

section
/-! PROOFS. OPC and ST are read by no instruction (10_state.md R38, R39): the fetch overwrites OPC before the effect runs, and
every effect commutes with a write of ST. -/

namespace Sys2Proof

/-! ## A word that decodes is the instruction's encoding (30_encoding.md R102, R105) -/

theorem layoutAddr_top (o : BitVec 4) (a : Addr12) : (layoutAddr o a).extractLsb' 12 4 = o :=
  extract_eq _ _ _ fun k _ => by simp [layoutAddr_bit]

theorem layoutImm_top (o : BitVec 4) (x : Reg) (b : Byte) : (layoutImm o x b).extractLsb' 12 4 = o :=
  extract_eq _ _ _ fun k _ => by
    have h : ¬ (12 + k < 8) := by omega
    simp [layoutImm_bit, h]

theorem layoutXY_top (o : BitVec 4) (x y : Reg) (n : BitVec 4) : (layoutXY o x y n).extractLsb' 12 4 = o :=
  extract_eq _ _ _ fun k _ => by
    have h1 : ¬ (12 + k < 4) := by omega
    have h2 : ¬ (12 + k < 8) := by omega
    simp [layoutXY_bit, h1, h2]

theorem layoutAddr_of_masked {op : Word} {o : BitVec 4} (h : op &&& 0xF000#16 = layoutAddr o 0) :
    layoutAddr o (fieldNNN op) = op := by
  have hop := layoutAddr_fields op
  rw [← hop, layoutAddr_family] at h
  have ho := congrArg (·.extractLsb' 12 4) h
  simp only [layoutAddr_top] at ho
  rwa [ho] at hop

theorem layoutImm_of_masked {op : Word} {o : BitVec 4} (h : op &&& 0xF000#16 = layoutImm o 0 0) :
    layoutImm o (fieldX op) (fieldNN op) = op := by
  have hop := layoutImm_fields op
  rw [← hop, layoutImm_family] at h
  have ho := congrArg (·.extractLsb' 12 4) h
  simp only [layoutImm_top] at ho
  rwa [ho] at hop

theorem layoutImm_of_sub {op : Word} {o : BitVec 4} {b : Byte} (h : op &&& 0xF0FF#16 = layoutImm o 0 b) :
    layoutImm o (fieldX op) b = op := by
  have hop := layoutImm_fields op
  rw [← hop, layoutImm_sub] at h
  have ho := congrArg (·.extractLsb' 12 4) h
  have hb := congrArg fieldNN h
  simp only [layoutImm_top, fieldNN_layoutImm] at ho hb
  rwa [ho, hb] at hop

theorem layoutXY_of_masked {op : Word} {o : BitVec 4} (h : op &&& 0xF000#16 = layoutXY o 0 0 0) :
    layoutXY o (fieldX op) (fieldY op) (fieldN op) = op := by
  have hop := layoutXY_fields op
  rw [← hop, layoutXY_family] at h
  have ho := congrArg (·.extractLsb' 12 4) h
  simp only [layoutXY_top] at ho
  rwa [ho] at hop

theorem layoutXY_of_sub {op : Word} {o n : BitVec 4} (h : op &&& 0xF00F#16 = layoutXY o 0 0 n) :
    layoutXY o (fieldX op) (fieldY op) n = op := by
  have hop := layoutXY_fields op
  rw [← hop, layoutXY_sub] at h
  have ho := congrArg (·.extractLsb' 12 4) h
  have hn := congrArg fieldN h
  simp only [layoutXY_top, fieldN_layoutXY] at ho hn
  rwa [ho, hn] at hop

theorem eq_of_masked {op w : Word} (h : op &&& 0xFFFF#16 = w) : w = op :=
  h.symm.trans (BitVec.and_allOnes (x := op))

/-- The instruction a row builds of a word it matches encodes to that word. -/
def Row.Rebuilds (r : Row) : Prop := ∀ op : Word, op &&& r.mask = r.pattern → encode (r.build op) = op

theorem rowsLow_rebuild : ∀ r ∈ rowsLow, r.Rebuilds := by
  simp only [rowsLow, List.forall_mem_cons]
  exact ⟨fun _ h => eq_of_masked h, fun _ h => eq_of_masked h, fun _ h => layoutAddr_of_masked h,
    fun _ h => layoutAddr_of_masked h, fun _ h => layoutImm_of_masked h, fun _ h => layoutImm_of_masked h,
    fun _ h => layoutXY_of_sub h, fun _ h => layoutImm_of_masked h, fun _ h => layoutImm_of_masked h, nofun⟩

theorem rowsAlu_rebuild : ∀ r ∈ rowsAlu, r.Rebuilds := by
  simp only [rowsAlu, List.forall_mem_cons]
  exact ⟨fun _ h => layoutXY_of_sub h, fun _ h => layoutXY_of_sub h, fun _ h => layoutXY_of_sub h,
    fun _ h => layoutXY_of_sub h, fun _ h => layoutXY_of_sub h, fun _ h => layoutXY_of_sub h,
    fun _ h => layoutXY_of_sub h, fun _ h => layoutXY_of_sub h, fun _ h => layoutXY_of_sub h, nofun⟩

theorem rowsHigh_rebuild : ∀ r ∈ rowsHigh, r.Rebuilds := by
  simp only [rowsHigh, List.forall_mem_cons]
  exact ⟨fun _ h => layoutXY_of_sub h, fun _ h => layoutAddr_of_masked h, fun _ h => layoutAddr_of_masked h,
    fun _ h => layoutImm_of_masked h, fun _ h => layoutXY_of_masked h, fun _ h => layoutImm_of_sub h,
    fun _ h => layoutImm_of_sub h, nofun⟩

theorem rowsMisc_rebuild : ∀ r ∈ rowsMisc, r.Rebuilds := by
  simp only [rowsMisc, List.forall_mem_cons]
  exact ⟨fun _ h => layoutImm_of_sub h, fun _ h => layoutImm_of_sub h, fun _ h => layoutImm_of_sub h,
    fun _ h => layoutImm_of_sub h, fun _ h => layoutImm_of_sub h, fun _ h => layoutImm_of_sub h,
    fun _ h => layoutImm_of_sub h, fun _ h => layoutImm_of_sub h, fun _ h => layoutImm_of_sub h, nofun⟩

theorem opcodeTable_rebuild : ∀ r ∈ opcodeTable, r.Rebuilds := by
  simp only [opcodeTable, List.forall_mem_append]
  exact ⟨⟨⟨rowsLow_rebuild, rowsAlu_rebuild⟩, rowsHigh_rebuild⟩, rowsMisc_rebuild⟩

/-- Decoding is strict: the only word that decodes to an instruction is its encoding. -/
theorem encode_of_decode {op : Word} {ins : Instr} (h : decode op = .ok ins) : encode ins = op := by
  obtain ⟨r, hr, hacc, hd⟩ | ⟨-, hd⟩ := decode_cases op
  · cases hd.symm.trans h
    exact opcodeTable_rebuild r hr op (beq_iff_eq.1 hacc)
  · cases hd.symm.trans h

end Sys2Proof

namespace Sys2Proof.Machine

/-! ## OPC (10_state.md R39) -/

theorem exec_of_ok {ins : Instr} {s t : State} (h : effectOf ins (s.advance (encode ins)) = .ok t) :
    exec ins s = .next t :=
  (exec_eq_perform ins s).trans (perform_ok h)

theorem exec_of_error {ins : Instr} {s : State} {e : Raise} (h : effectOf ins (s.advance (encode ins)) = .error e) :
    exec ins s = .next (s.takeFault (some (encode ins)) e) :=
  (exec_eq_perform ins s).trans (perform_error h)

/-- An effect leaves OPC and Run as the fetch left them. -/
theorem effectOf_opc_run {ins : Instr} {s t : State} (h : effectOf ins (s.advance (encode ins)) = .ok t) :
    t.opc = encode ins ∧ t.run = s.run :=
  ⟨(effectOf_writes h).frame .opc (not_mayWrite_opc ins), (effectOf_writes h).frame .run (not_mayWrite_run ins)⟩

/-- A step that fetches a word and takes no fault leaves the word in OPC. -/
theorem step_opc {s t : State} {op : Word} (hsafe : s.safe) (hf : fetch s = .ok op) (h : step s = .next t) (ht : t.safe) :
    t.opc = op := by
  rw [step_safe hsafe] at h
  obtain ⟨e, hf', -⟩ | ⟨op', hf', -, he⟩ | ⟨op', ins, hf', hd, he⟩ := exec1_cases s
  · cases hf'.symm.trans hf
  · cases hf'.symm.trans hf
    cases he.symm.trans h
    rfl
  · cases hf'.symm.trans hf
    obtain hok | ⟨e, -, rfl⟩ := exec_cases (he.symm.trans h)
    · exact (effectOf_opc_run hok).1.trans (encode_of_decode hd)
    · exact absurd rfl ht

/-- Settles O45: the fetch writes OPC, so from states that differ in OPC only the effect runs from the same state; a fault
keeps OPC as it was before the fetch. -/
theorem noInstructionReadsOPC : Obligations.NoInstructionReadsOPC := by
  unfold Obligations.NoInstructionReadsOPC
  refine ⟨rfl, fun _ => rfl, fun s t op => step_opc, fun ins s t w hsafe h => ?_⟩
  have hsame : { s with opc := w }.advance (encode ins) = s.advance (encode ins) := rfl
  obtain hok | ⟨e, he, rfl⟩ := exec_cases h
  · obtain ⟨hopc, hrun⟩ := effectOf_opc_run hok
    exact ⟨fun _ => ⟨hopc, exec_of_ok (hsame ▸ hok)⟩, fun ht => absurd (hrun.symm.trans ht) hsafe⟩
  · exact ⟨fun ht => absurd rfl ht, fun _ => exec_of_error (hsame ▸ he)⟩

/-! ## ST (10_state.md R38) -/

/-- `u` with ST written. -/
def State.withST (u : State) (b : Byte) : State := { u with st := b }

section
variable (u : State) (b : Byte)

@[simp] theorem State.withST_reg (r : Reg) : (u.withST b).reg r = u.reg r := rfl

@[simp] theorem State.withST_dataAddress : (u.withST b).dataAddress = u.dataAddress := rfl

@[simp] theorem State.withST_pressedKeys : (u.withST b).pressedKeys = u.pressedKeys := rfl

theorem skipIf_withST (c : Bool) : (u.withST b).skipIf c = (u.skipIf c).withST b := by
  cases c <;> rfl

theorem setRegsFrom_withST (bs : List Byte) (k : Nat) :
    (u.withST b).setRegsFrom k bs = (u.setRegsFrom k bs).withST b := by
  induction bs generalizing u k with
  | nil => rfl
  | cons c bs ih =>
    rw [State.setRegsFrom, State.setRegsFrom]
    split
    · exact ih (u.setReg _ c) (k + 1)
    · exact ih u (k + 1)

theorem readBytes_withST (a n : Nat) : readBytes (u.withST b) a n = readBytes u a n := by
  induction n generalizing a with
  | zero => rfl
  | succ n ih =>
    rw [readBytes, readBytes, ih]
    rfl

theorem writeBytes_withST (a : Nat) (bs : List Byte) :
    writeBytes (u.withST b) a bs = (writeBytes u a bs).map (·.withST b) := by
  by_cases hfit : a + bs.length ≤ memSize
  · rw [writeBytes_inside bs u a hfit, writeBytes_inside bs _ a hfit]
    rfl
  · cases bs with
    | nil => rfl
    | cons c bs =>
      rw [writeBytes_outside _ u a (by omega) (List.cons_ne_nil c bs),
        writeBytes_outside _ _ a (by omega) (List.cons_ne_nil c bs)]
      rfl

/-- Every effect but FX18's commutes with a write of ST. The cases are those of `effectOf_permitted`. -/
theorem effectOf_withST {ins : Instr} (hins : ∀ x, ins ≠ .opFX18 x) :
    effectOf ins (u.withST b) = (effectOf ins u).map (·.withST b) := by
  cases ins with
  | opFX18 x => exact absurd rfl (hins x)
  | op3XNN | op4XNN | op5XY0 | op9XY0 => exact congrArg Except.ok (skipIf_withST ..)
  | opFX33 | opFX55 => exact writeBytes_withST ..
  | op00EE =>
    obtain ⟨ws, w, hws, hpop⟩ | ⟨hnil, hpop⟩ := pop_cases u
    · rw [effectOf, effectOf, hpop, pop_entry (u.withST b) ws w hws]
      rfl
    · rw [effectOf, effectOf, hpop, pop_empty (u.withST b) hnil]
      rfl
  | op2NNN =>
    obtain ⟨hroom, hpush⟩ | ⟨hfull, hpush⟩ := push_cases u u.pc
    · rw [effectOf, effectOf, hpush, push_room (u.withST b) _ hroom]
      rfl
    · rw [effectOf, effectOf, hpush, push_full (u.withST b) _ hfull]
      rfl
  | opEX9E x | opEXA1 x =>
    rw [effectOf, effectOf, State.withST_reg]
    cases keyOf (u.reg x) with
    | error e => rfl
    | ok k => exact congrArg Except.ok (skipIf_withST ..)
  | opDXYN x y n =>
    rw [effectOf, effectOf, readBytes_withST, State.withST_dataAddress]
    cases readBytes u u.dataAddress n.toNat <;> rfl
  | opFX65 x =>
    rw [effectOf, effectOf, readBytes_withST, State.withST_dataAddress]
    cases readBytes u u.dataAddress (x.val + 1) with
    | error e => rfl
    | ok bs => exact congrArg Except.ok (setRegsFrom_withST ..)
  | opFX0A x =>
    rw [effectOf, effectOf, State.withST_pressedKeys]
    cases u.pressedKeys <;> rfl
  | _ => rfl

end

/-- An instruction other than FX18 leaves ST alone. -/
theorem exec_st {ins : Instr} {s t : State} (h : exec ins s = .next t) (hins : ∀ x, ins ≠ .opFX18 x) : t.st = s.st := by
  by_contra hne
  have hw : mayWrite ins .st := exec_changes h (by simp) hne
  cases ins with
  | opFX18 x => exact hins x rfl
  | _ => simp [mayWrite] at hw

/-- Settles O46: the effects commute with a write of ST, so does the fault, and FX18's overwrites it. -/
theorem noInstructionReadsST : Obligations.NoInstructionReadsST := by
  unfold Obligations.NoInstructionReadsST
  intro ins s t b h
  refine ⟨?_, fun hins => ⟨exec_st h hins, ?_⟩⟩
  · rintro ⟨x, rfl⟩
    exact h
  · have heffect := effectOf_withST (s.advance (encode ins)) b hins
    obtain hok | ⟨e, he, rfl⟩ := exec_cases h
    · rw [hok] at heffect
      exact exec_of_ok heffect
    · rw [he] at heffect
      exact exec_of_error heffect

end Sys2Proof.Machine
end

section
/-! PROOFS. The block store, said once for FX33 and FX55: its end state, the bytes its memory holds, and the bytes it can
change (20_memory.md R75, 43_index_memory.md R252). -/

namespace Sys2Proof.Machine

/-! ## A block copied to memory -/

section
variable {m : Memory} {a : Nat} {bs : List Byte}

theorem Memory.get_load_add (hfit : a + bs.length ≤ memSize) {k : Nat} (hk : k < bs.length) :
    (m.load a bs).get (a + k) = bs[k] := by
  rw [Memory.get_load bs m a (a + k) hfit, dif_pos ⟨by omega, by omega⟩]
  simp

/-- An address at which the copy changes memory is one of the block's. -/
theorem Memory.get_load_changes (hfit : a + bs.length ≤ memSize) {d : Nat} (hne : (m.load a bs).get d ≠ m.get d) :
    a ≤ d ∧ d < a + bs.length := by
  by_contra hout
  exact hne ((Memory.get_load bs m a d hfit).trans (dif_neg (by omega)))

theorem Memory.get_load_off (hfit : a + bs.length ≤ memSize) {d : Nat} (hoff : ∀ k < bs.length, d ≠ a + k) :
    (m.load a bs).get d = m.get d := by
  by_contra hne
  obtain ⟨hlow, hhigh⟩ := Memory.get_load_changes hfit hne
  exact hoff (d - a) (by omega) (by omega)

end

/-! ## The two stored blocks in memory -/

section
variable {s : State} {m : Memory} {a : Nat} {x : Reg}

/-- Where a block of registers is copied, each of its addresses holds its register. -/
theorem get_load_regBlock (hfit : a + (s.regBlock x).length ≤ memSize) {k : Reg} (hk : k ≤ x) :
    (m.load a (s.regBlock x)).get (a + k.val) = s.reg k := by
  have hlen : k.val < (s.regBlock x).length := by
    rw [State.regBlock_length]
    exact Nat.lt_succ_of_le hk
  rw [Memory.get_load_add hfit hlen, State.regBlock_get]

theorem get_load_regBlock_off (hfit : a + (s.regBlock x).length ≤ memSize) {d : Nat}
    (hoff : ∀ k : Reg, k ≤ x → d ≠ a + k.val) : (m.load a (s.regBlock x)).get d = m.get d := by
  refine Memory.get_load_off hfit fun k hk => ?_
  rw [State.regBlock_length] at hk
  exact hoff ⟨k, by omega⟩ (Nat.le_of_lt_succ hk)

end

@[simp] theorem decimalDigits_length (b : Byte) : (decimalDigits b).length = 3 := rfl

theorem mod256_toNat_of_lt {n : Nat} (h : n < 256) : (mod256 n).toNat = n :=
  (mod256_toNat n).trans (Nat.mod_eq_of_lt h)

/-- Where the digits of a byte are copied, the three addresses hold the hundreds, the tens and the ones. -/
theorem get_load_decimalDigits {m : Memory} {a : Nat} {b : Byte} (hfit : a + (decimalDigits b).length ≤ memSize) :
    ((m.load a (decimalDigits b)).get a).toNat = b.toNat / 100 ∧
    ((m.load a (decimalDigits b)).get (a + 1)).toNat = b.toNat / 10 % 10 ∧
    ((m.load a (decimalDigits b)).get (a + 2)).toNat = b.toNat % 10 := by
  have hb := b.isLt
  have hdigit {k : Nat} (hk : k < (decimalDigits b).length) := congrArg BitVec.toNat (Memory.get_load_add (m := m) hfit hk)
  exact ⟨(hdigit (k := 0) (by simp)).trans (mod256_toNat_of_lt (by omega)),
    (hdigit (k := 1) (by simp)).trans (mod256_toNat_of_lt (by omega)),
    (hdigit (k := 2) (by simp)).trans (mod256_toNat_of_lt (by omega))⟩

/-! ## The store instructions -/

/-- The effect of `ins` from `s` is to store the bytes at I. -/
def Stores (ins : Instr) (s : State) (bs : List Byte) : Prop :=
  effectOf ins (s.advance (encode ins)) = writeBytes (s.advance (encode ins)) s.dataAddress bs

theorem stores_opFX33 (x : Reg) (s : State) : Stores (.opFX33 x) s (decimalDigits (s.reg x)) := rfl

theorem stores_opFX55 (x : Reg) (s : State) : Stores (.opFX55 x) s (s.regBlock x) := rfl

/-- Where `ins` ends when it has stored the bytes at I. -/
def State.stored (s : State) (ins : Instr) (bs : List Byte) : State :=
  { s.advance (encode ins) with mem := s.mem.load s.dataAddress bs }

section
variable {ins : Instr} {s : State} {bs : List Byte}

theorem exec_stored (h : Stores ins s bs) (hfit : s.dataAddress + bs.length ≤ memSize) :
    exec ins s = .next (s.stored ins bs) :=
  exec_of_ok (h.trans (writeBytes_inside bs _ _ hfit))

/-- A byte that a store instruction changes lies in memory and in the block from I; a store that leaves memory faults and
changes none. -/
theorem exec_store_changes (h : Stores ins s bs) (hbs : bs ≠ []) {t : State} (hexec : exec ins s = .next t) {a : Nat}
    (hne : t.mem.get a ≠ s.mem.get a) : a < memSize ∧ s.dataAddress ≤ a ∧ a < s.dataAddress + bs.length := by
  by_cases hfit : s.dataAddress + bs.length ≤ memSize
  · cases (exec_stored h hfit).symm.trans hexec
    obtain ⟨hlow, hhigh⟩ := Memory.get_load_changes hfit hne
    exact ⟨by omega, hlow, hhigh⟩
  · cases (exec_of_error (h.trans (writeBytes_outside bs _ _ (by omega) hbs))).symm.trans hexec
    exact absurd rfl hne

/-- The fetch after a store reads the memory the store left. -/
theorem fetch_stored (hpc : s.pc.toNat + 3 < memSize) :
    fetch (s.stored ins bs) = .ok (wordOfBytes ((s.mem.load s.dataAddress bs).get (s.pc.toNat + 2))
      ((s.mem.load s.dataAddress bs).get (s.pc.toNat + 3))) := by
  have hnext : (s.stored ins bs).pc.toNat = s.pc.toNat + 2 := pc_add_two (by simp only [memSize] at hpc; omega)
  rw [fetch_inside _ (by omega), hnext]
  rfl

end

end Sys2Proof.Machine
end

section
/-! PROOFS. The rules of 20_memory.md: which instructions change memory, what the next fetch sees of it, how the host's load
fills it, and the order of an opcode's two bytes. -/

namespace Sys2Proof.Machine

/-! ## Stores (20_memory.md R70, R74, R85) -/

/-- Settles O43: memory is in the table's row of FX33 and FX55 only, and both are block stores. -/
theorem onlyStoresChangeMemory : Obligations.OnlyStoresChangeMemory := by
  unfold Obligations.OnlyStoresChangeMemory
  intro ins s t a h hne
  have hw : mayWrite ins (.mem a) := exec_changes h (by simp) hne
  cases ins with
  | opFX33 x =>
    obtain ⟨hmem, hlow, hhigh⟩ := exec_store_changes (stores_opFX33 x s) (by simp [decimalDigits]) h hne
    exact ⟨hmem, .inl ⟨x, rfl, hlow, hhigh⟩⟩
  | opFX55 x =>
    have hbs : s.regBlock x ≠ [] := List.ne_nil_of_length_pos (by simp)
    obtain ⟨hmem, hlow, hhigh⟩ := exec_store_changes (stores_opFX55 x s) hbs h hne
    rw [State.regBlock_length] at hhigh
    exact ⟨hmem, .inr ⟨x, rfl, hlow, by omega⟩⟩
  | _ => simp [mayWrite] at hw

/-- Settles O31: the bytes the fetch reads are those of the memory the store left, which holds the block at I and is otherwise
as before. -/
theorem storedWordIsFetchedNext : Obligations.StoredWordIsFetchedNext := by
  unfold Obligations.StoredWordIsFetchedNext
  intro x s hpc
  constructor
  · intro hin
    have hfit : s.dataAddress + (s.regBlock x).length ≤ memSize := by rw [State.regBlock_length]; omega
    exact ⟨_, _, exec_stored (stores_opFX55 x s) hfit, fetch_stored hpc, fun k hk => get_load_regBlock hfit hk,
      fun a hoff => get_load_regBlock_off hfit hoff⟩
  · intro hin
    have hfit : s.dataAddress + (decimalDigits (s.reg x)).length ≤ memSize := by rw [decimalDigits_length]; omega
    obtain ⟨hhundreds, htens, hones⟩ := get_load_decimalDigits (m := s.mem) hfit
    exact ⟨_, _, exec_stored (stores_opFX33 x s) hfit, fetch_stored hpc, hhundreds, htens, hones,
      fun a hoff => Memory.get_load_off hfit hoff⟩

/-! ## Loading a program (20_memory.md R84) -/

theorem loadProgram_fits {bytes : List Byte} {base : Nat} (s : State) (h : base + bytes.length ≤ memSize) :
    loadProgram bytes base s = ({ s with mem := s.mem.load base bytes, rom := ⟨bytes, base⟩ }, .ok) :=
  if_neg (by omega)

theorem loadProgram_tooLarge {bytes : List Byte} {base : Nat} (s : State) (h : memSize < base + bytes.length) :
    loadProgram bytes base s = (s, .romTooLarge) :=
  if_pos h

/-- Settles O52: an image that fits is a block copied to memory, and everything but memory and Rom is the same field. -/
theorem loadProgramCopiesOrRejects : Obligations.LoadProgramCopiesOrRejects := by
  unfold Obligations.LoadProgramCopiesOrRejects
  intro bytes base s
  refine ⟨fun hfit => ?_, fun hlarge => loadProgram_tooLarge s hlarge⟩
  refine ⟨_, loadProgram_fits s hfit, rfl, fun k hk => Memory.get_load_add hfit hk, fun p hp => ?_⟩
  cases p with
  | mem a => exact Memory.get_load_off hfit fun k hk ha => hp (.inr ⟨k, hk, congrArg Part.mem ha⟩)
  | rom => exact absurd (.inl rfl) hp
  | _ => rfl

/-! ## The opcode at PC (20_memory.md R73) -/

theorem wordOfBytes_toNat (hi lo : Byte) : (wordOfBytes hi lo).toNat = hi.toNat * 256 + lo.toNat := by
  have hlo : lo.toNat < 2 ^ 8 := lo.isLt
  calc (wordOfBytes hi lo).toNat = hi.toNat <<< 8 ||| lo.toNat := BitVec.toNat_append hi lo
    _ = hi.toNat <<< 8 + lo.toNat := (Nat.shiftLeft_add_eq_or_of_lt hlo _).symm
    _ = hi.toNat * 256 + lo.toNat := by rw [Nat.shiftLeft_eq]

theorem exec1_decoded {s : State} {op : Word} {ins : Instr} (hf : fetch s = .ok op) (hd : decode op = .ok ins) :
    exec1 s = exec ins s := by
  simp only [exec1, hf, hd]

/-- Settles O6: the fetch within memory gives the big-endian word at PC, and strict decoding makes that word the
instruction's encoding. -/
theorem stepRunsTheDecodedInstruction : Obligations.StepRunsTheDecodedInstruction := by
  unfold Obligations.StepRunsTheDecodedInstruction
  intro s ins hsafe hpc hd
  constructor
  · exact (step_safe hsafe).trans (exec1_decoded (fetch_inside s hpc) hd)
  · rw [encode_of_decode hd, wordOfBytes_toNat]

end Sys2Proof.Machine
end

section
/-! PROOFS. The encoding (30_encoding.md): decoder and encoder are inverse to each other, the decoder is the strict table,
and the words that no row accepts are those of R108. -/

namespace Sys2Proof

/-! ## The round trip (R101, R102, R120) -/

/-- The encoding of every instruction matches one row of the table, and that row builds the instruction. -/
theorem encodesToRow : ∀ ins : Instr, Laws.EncodesToRow.Statement ins
  | .op00E0 => Laws.EncodesToRow.op00E0
  | .op00EE => Laws.EncodesToRow.op00EE
  | .op1NNN a => Laws.EncodesToRow.op1NNN a
  | .op2NNN a => Laws.EncodesToRow.op2NNN a
  | .op3XNN x b => Laws.EncodesToRow.op3XNN x b
  | .op4XNN x b => Laws.EncodesToRow.op4XNN x b
  | .op5XY0 x y => Laws.EncodesToRow.op5XY0 x y
  | .op6XNN x b => Laws.EncodesToRow.op6XNN x b
  | .op7XNN x b => Laws.EncodesToRow.op7XNN x b
  | .op8XY0 x y => Laws.EncodesToRow.op8XY0 x y
  | .op8XY1 x y => Laws.EncodesToRow.op8XY1 x y
  | .op8XY2 x y => Laws.EncodesToRow.op8XY2 x y
  | .op8XY3 x y => Laws.EncodesToRow.op8XY3 x y
  | .op8XY4 x y => Laws.EncodesToRow.op8XY4 x y
  | .op8XY5 x y => Laws.EncodesToRow.op8XY5 x y
  | .op8XY6 x y => Laws.EncodesToRow.op8XY6 x y
  | .op8XY7 x y => Laws.EncodesToRow.op8XY7 x y
  | .op8XYE x y => Laws.EncodesToRow.op8XYE x y
  | .op9XY0 x y => Laws.EncodesToRow.op9XY0 x y
  | .opANNN a => Laws.EncodesToRow.opANNN a
  | .opBNNN a => Laws.EncodesToRow.opBNNN a
  | .opCXNN x b => Laws.EncodesToRow.opCXNN x b
  | .opDXYN x y n => Laws.EncodesToRow.opDXYN x y n
  | .opEX9E x => Laws.EncodesToRow.opEX9E x
  | .opEXA1 x => Laws.EncodesToRow.opEXA1 x
  | .opFX07 x => Laws.EncodesToRow.opFX07 x
  | .opFX0A x => Laws.EncodesToRow.opFX0A x
  | .opFX15 x => Laws.EncodesToRow.opFX15 x
  | .opFX18 x => Laws.EncodesToRow.opFX18 x
  | .opFX1E x => Laws.EncodesToRow.opFX1E x
  | .opFX29 x => Laws.EncodesToRow.opFX29 x
  | .opFX33 x => Laws.EncodesToRow.opFX33 x
  | .opFX55 x => Laws.EncodesToRow.opFX55 x
  | .opFX65 x => Laws.EncodesToRow.opFX65 x

@[simp] theorem decode_encode (ins : Instr) : decode (encode ins) = .ok ins := by
  obtain ⟨r, hr, -, haccepts, hbuild⟩ := encodesToRow ins
  rw [decode_of_row hr haccepts, hbuild]

theorem decodeBytes_of_decode {op : Word} {ins : Instr} (h : decode op = .ok ins) (rest : List Byte) :
    decodeBytes (highByte op :: lowByte op :: rest) = .ok (ins, rest) := by
  simp only [decodeBytes, wordOfBytes_bytes, h]

/-- Settles O2: the row of the instruction accepts its encoding and builds it again, and the two bytes of a word give the
word back. -/
theorem decodeOfEncode : Obligations.DecodeOfEncode := by
  unfold Obligations.DecodeOfEncode
  exact fun ins rest => ⟨decode_encode ins, decodeBytes_of_decode (decode_encode ins) rest⟩

/-- Settles O3. -/
theorem encodeOfDecode : Obligations.EncodeOfDecode := by
  unfold Obligations.EncodeOfDecode
  exact fun _ _ => encode_of_decode

/-- Settles O1, by running the decoder on each word. -/
theorem handWrittenWordsDecode : Obligations.HandWrittenWordsDecode := by
  unfold Obligations.HandWrittenWordsDecode
  decide

/-! ## The strict table (R105, R106) -/

theorem decode_of_masked {r : Row} (hr : r ∈ opcodeTable) {op : Word} (h : op &&& r.mask = r.pattern) :
    decode op = .ok (r.build op) :=
  decode_of_row hr (beq_iff_eq.2 h)

theorem decode_unknown_iff (op : Word) :
    decode op = .error .unknownOpcode ↔ ∀ r ∈ opcodeTable, op &&& r.mask ≠ r.pattern := by
  constructor
  · intro h r hr hmasked
    cases h.symm.trans (decode_of_masked hr hmasked)
  · intro hnone
    obtain ⟨r, hr, haccepts, -⟩ | ⟨-, h⟩ := decode_cases op
    · exact absurd (beq_iff_eq.1 haccepts) (hnone r hr)
    · exact h

/-- A row builds instructions of the row's own name. -/
theorem build_mnemonic {r : Row} (hr : r ∈ opcodeTable) (op : Word) : (r.build op).mnemonic = r.mnemonic := by
  revert r
  simp only [opcodeTable, rowsLow, rowsAlu, rowsHigh, rowsMisc, List.forall_mem_append, List.forall_mem_cons, Instr.mnemonic,
    List.not_mem_nil, false_implies, implies_true, and_self]

/-- Rows that match one word have one name: both decode it. -/
theorem mnemonic_of_masked {r q : Row} (hr : r ∈ opcodeTable) (hq : q ∈ opcodeTable) {op : Word}
    (hrop : op &&& r.mask = r.pattern) (hqop : op &&& q.mask = q.pattern) : q.mnemonic = r.mnemonic := by
  have hbuild : q.build op = r.build op :=
    Except.ok.inj ((decode_of_masked hq hqop).symm.trans (decode_of_masked hr hrop))
  rw [← build_mnemonic hq op, hbuild, build_mnemonic hr op]

/-- Settles O4. -/
theorem decodeFollowsTheUniqueRow : Obligations.DecodeFollowsTheUniqueRow := by
  unfold Obligations.DecodeFollowsTheUniqueRow
  exact fun op => ⟨fun r hr hop => ⟨decode_of_masked hr hop, build_mnemonic hr op,
    fun q hq hqop => mnemonic_of_masked hr hq hop hqop⟩, (decode_unknown_iff op).2⟩

/-! ## The masks of the table, as conditions on the fields (R101) -/

/-- The family of a word is its top nibble, op[15:12]. -/
def family (op : Word) : BitVec 4 := op.extractLsb' 12 4

@[simp] theorem family_layoutAddr (o : BitVec 4) (a : Addr12) : family (layoutAddr o a) = o :=
  layoutAddr_top o a

@[simp] theorem family_layoutImm (o : BitVec 4) (x : Reg) (b : Byte) : family (layoutImm o x b) = o :=
  layoutImm_top o x b

@[simp] theorem family_layoutXY (o : BitVec 4) (x y : Reg) (n : BitVec 4) : family (layoutXY o x y n) = o :=
  layoutXY_top o x y n

theorem masked_family (op : Word) : op &&& 0xF000#16 = layoutAddr (family op) 0 :=
  calc op &&& 0xF000#16 = layoutAddr (family op) (fieldNNN op) &&& 0xF000#16 :=
        congrArg (· &&& _) (layoutAddr_fields op).symm
    _ = layoutAddr (family op) 0 := layoutAddr_family ..

theorem masked_familyN (op : Word) : op &&& 0xF00F#16 = layoutXY (family op) 0 0 (fieldN op) :=
  calc op &&& 0xF00F#16 = layoutXY (family op) (fieldX op) (fieldY op) (fieldN op) &&& 0xF00F#16 :=
        congrArg (· &&& _) (layoutXY_fields op).symm
    _ = layoutXY (family op) 0 0 (fieldN op) := layoutXY_sub ..

theorem masked_familyNN (op : Word) : op &&& 0xF0FF#16 = layoutImm (family op) 0 (fieldNN op) :=
  calc op &&& 0xF0FF#16 = layoutImm (family op) (fieldX op) (fieldNN op) &&& 0xF0FF#16 :=
        congrArg (· &&& _) (layoutImm_fields op).symm
    _ = layoutImm (family op) 0 (fieldNN op) := layoutImm_sub ..

section
variable {op w : Word}

/-! A pattern `w` that has no bit outside its mask is matched exactly where the fields that the mask fixes are `w`'s. -/

theorem masked_eq_iff_family (hw : layoutAddr (family w) 0 = w) : op &&& 0xF000#16 = w ↔ family op = family w := by
  rw [masked_family]
  exact ⟨fun h => by simp [← h], fun h => by rw [h, hw]⟩

theorem masked_eq_iff_familyN (hw : layoutXY (family w) 0 0 (fieldN w) = w) :
    op &&& 0xF00F#16 = w ↔ family op = family w ∧ fieldN op = fieldN w := by
  rw [masked_familyN]
  exact ⟨fun h => by simp [← h], fun ⟨ho, hn⟩ => by rw [ho, hn, hw]⟩

theorem masked_eq_iff_familyNN (hw : layoutImm (family w) 0 (fieldNN w) = w) :
    op &&& 0xF0FF#16 = w ↔ family op = family w ∧ fieldNN op = fieldNN w := by
  rw [masked_familyNN]
  exact ⟨fun h => by simp [← h], fun ⟨ho, hb⟩ => by rw [ho, hb, hw]⟩

theorem masked_eq_iff : op &&& 0xFFFF#16 = w ↔ op = w :=
  ⟨fun h => (eq_of_masked h).symm, fun h => h ▸ BitVec.and_allOnes (x := op)⟩

end

/-! ## The Unknown words (R108) -/

/-- The ten families without an Unknown word, and the six of R108's table. -/
theorem family_cases (f : BitVec 4) :
    f ∈ [0x1#4, 0x2#4, 0x3#4, 0x4#4, 0x6#4, 0x7#4, 0xA#4, 0xB#4, 0xC#4, 0xD#4] ∨
      f = 0x0#4 ∨ f = 0x5#4 ∨ f = 0x8#4 ∨ f = 0x9#4 ∨ f = 0xE#4 ∨ f = 0xF#4 := by
  revert f
  decide

/-- The sub-opcodes of family 0x8 that no row has. -/
theorem aluSub_unassigned_iff (n : Nibble) :
    n ∉ [0x0#4, 0x1#4, 0x2#4, 0x3#4, 0x4#4, 0x5#4, 0x6#4, 0x7#4, 0xE#4] ↔
      n ∈ [0x8#4, 0x9#4, 0xA#4, 0xB#4, 0xC#4, 0xD#4, 0xF#4] := by
  revert n
  decide

/-- Settles O5: both sides are conditions on the family, N and NN, and they agree in each family. -/
theorem unknownWordsAreThoseListed : Obligations.UnknownWordsAreThoseListed := by
  unfold Obligations.UnknownWordsAreThoseListed
  intro op
  have hclear : family op ≠ 0 → op ≠ 0x00E0#16 := mt fun h => h ▸ rfl
  have hreturn : family op ≠ 0 → op ≠ 0x00EE#16 := mt fun h => h ▸ rfl
  rw [decode_unknown_iff]
  simp only [opcodeTable, rowsLow, rowsAlu, rowsHigh, rowsMisc, List.forall_mem_append, List.forall_mem_cons,
    BitVec.ofNat_eq_ofNat, ne_eq]
  simp (disch := decide) only [masked_eq_iff_family, masked_eq_iff_familyN, masked_eq_iff_familyNN, masked_eq_iff]
  generalize family op = f, fieldN op = n, fieldNN op = b at hclear hreturn ⊢
  simp only [family, fieldN, fieldNN, BitVec.reduceExtractLsb']
  obtain hassigned | rfl | rfl | rfl | rfl | rfl | rfl := family_cases f
  · fin_cases hassigned <;> simp
  · simp
  · simp [hclear, hreturn]
  · simpa [hclear, hreturn] using aluSub_unassigned_iff n
  · simp [hclear, hreturn]
  · simp [hclear, hreturn]
  · simp [hclear, hreturn]

end Sys2Proof

namespace Sys2Proof.Machine

/-- Settles O7: an Unknown word is the advance of the fetch alone. -/
theorem unknownWordIsNoOpAdvance : Obligations.UnknownWordIsNoOpAdvance := by
  unfold Obligations.UnknownWordIsNoOpAdvance
  intro s op hsafe hf hd
  refine ⟨by rw [nameOfWord, hd], s.advance op, ?_, rfl, rfl, advance_frame s op⟩
  obtain ⟨e, hf', -⟩ | ⟨op', hf', -, he⟩ | ⟨op', ins, hf', hd', -⟩ := exec1_cases s
  · cases hf'.symm.trans hf
  · cases hf'.symm.trans hf
    exact (step_safe hsafe).trans he
  · cases hf'.symm.trans hf
    cases hd'.symm.trans hd

end Sys2Proof.Machine
end

section
/-! PROOFS. The engine and the host's calls (40_execution_engine.md): every execution answers a state; what every step keeps,
the quota loop and, with the timer rule, a tick keep, and what every call keeps, a finite run of calls keeps; the run state
under each call; a parked program; and the keypad. -/

namespace Sys2Proof.Machine

/-! ## Every execution answers a state (R141, R144, R146) -/

theorem exec_next (ins : Instr) (s : State) : ∃ t, exec ins s = .next t := by
  cases he : effectOf ins (s.advance (encode ins)) with
  | ok t => exact ⟨t, exec_of_ok he⟩
  | error e => exact ⟨_, exec_of_error he⟩

theorem exec1_next (s : State) : ∃ t, exec1 s = .next t := by
  obtain ⟨e, -, he⟩ | ⟨op, -, -, he⟩ | ⟨op, ins, -, -, he⟩ := exec1_cases s
  · exact ⟨_, he⟩
  · exact ⟨_, he⟩
  · rw [he]
    exact exec_next ins s

theorem step_next (s : State) : ∃ t, step s = .next t := by
  by_cases hrun : s.run = .faulted
  · exact ⟨s, step_faulted hrun⟩
  · rw [step_safe hrun]
    exact exec1_next s

theorem quotaLoop_next (n : Nat) (s : State) : ∃ t, quotaLoop n s = .next t := by
  induction n generalizing s with
  | zero => exact ⟨s, rfl⟩
  | succ n ih =>
    by_cases hrun : s.run = .faulted
    · exact ⟨s, quotaLoop_faulted hrun⟩
    · obtain ⟨u, hu⟩ := exec1_next s
      rw [quotaLoop_succ hrun hu]
      exact ih u

theorem tickWith_next (q : Nat) (s : State) : ∃ t, tickWith q s = .next t := by
  cases hrun : s.run with
  | faulted => exact ⟨s, tickWith_faulted hrun⟩
  | stopped => exact ⟨s.countTimers, by rw [tickWith, hrun]⟩
  | running =>
    rw [tickWith, hrun]
    exact quotaLoop_next q s.countTimers

/-- Settles O11: the effect of an instruction answers a state or a raise, and a raise is taken in a state. -/
theorem everyStepAnswersANextState : Obligations.EveryStepAnswersANextState := by
  unfold Obligations.EveryStepAnswersANextState
  exact fun q ins s => ⟨step_next s, exec_next ins s, tickWith_next q s⟩

/-! ## The quota (R146, R148) -/

theorem quotaLoop_one {s : State} (h : s.safe) : quotaLoop 1 s = step s := by
  obtain ⟨t, ht⟩ := exec1_next s
  rw [quotaLoop_succ h ht, step_safe h, ht, quotaLoop]

/-- What is left of a quota runs from where the first part of it left the machine. -/
theorem quotaLoop_add {m : Nat} (n : Nat) {s t : State} (h : quotaLoop m s = .next t) :
    quotaLoop (m + n) s = quotaLoop n t := by
  induction m generalizing s with
  | zero =>
    cases h
    rw [Nat.zero_add]
  | succ m ih =>
    obtain ⟨hrun, rfl⟩ | ⟨hsafe, u, he, hloop⟩ := quotaLoop_succ_cases h
    · rw [quotaLoop_faulted hrun, quotaLoop_faulted hrun]
    · rw [Nat.succ_add, quotaLoop_succ hsafe he]
      exact ih hloop

/-- Settles O49: the first part of the quota answers a state, the rest runs from there, and it runs nothing where that state
is Faulted. -/
theorem quotaSplits : Obligations.QuotaSplits := by
  unfold Obligations.QuotaSplits
  intro m n s
  obtain ⟨t, ht⟩ := quotaLoop_next m s
  exact ⟨rfl, quotaLoop_one, t, ht, quotaLoop_add n ht, fun hrun => (quotaLoop_add n ht).trans (quotaLoop_faulted hrun)⟩

/-! ## What a tick and a run of calls keep -/

section
variable {P : State → Prop} {q : Nat}

/-- The loop executes from states that are not Faulted only, and there one execution is a step. -/
theorem quotaLoop_keeps_of_step (hstep : ∀ u v, P u → step u = .next v → P v) (n : Nat) {s t : State} (hs : P s)
    (h : quotaLoop n s = .next t) : P t := by
  induction n generalizing s with
  | zero =>
    cases h
    exact hs
  | succ n ih =>
    obtain ⟨-, rfl⟩ | ⟨hsafe, u, he, hloop⟩ := quotaLoop_succ_cases h
    · exact hs
    · exact ih (hstep s u hs ((step_safe hsafe).trans he)) hloop

theorem tickWith_keeps (hcount : ∀ u, P u → P u.countTimers) (hstep : ∀ u v, P u → step u = .next v → P v)
    {s t : State} (hs : P s) (h : tickWith q s = .next t) : P t := by
  unfold tickWith at h
  split at h
  · cases h
    exact hs
  · cases h
    exact hcount s hs
  · exact quotaLoop_keeps_of_step hstep q (hcount s hs) h

/-- A run of calls that has a last state has a state after its first call. -/
theorem applyCalls_cons {c : HostCall} {cs : List HostCall} {s t : State} (h : applyCalls q (c :: cs) s = .next t) :
    ∃ u, c.apply q s = .next u ∧ applyCalls q cs u = .next t := by
  rw [applyCalls] at h
  split at h
  · next u hu => exact ⟨u, hu, h⟩
  · cases h
  · cases h

theorem applyCalls_keeps (happly : ∀ (c : HostCall) u v, P u → c.apply q u = .next v → P v) {cs : List HostCall}
    {s t : State} (hs : P s) (h : applyCalls q cs s = .next t) : P t := by
  induction cs generalizing s with
  | nil =>
    cases h
    exact hs
  | cons c cs ih =>
    obtain ⟨u, hu, hrest⟩ := applyCalls_cons h
    exact ih (happly c s u hs hu) hrest

end

/-! ## The invariant under each call (R160, R162) -/

theorem countTimers_inv {s : State} (hs : MachineInv s) : MachineInv s.countTimers := by
  rw [countTimers_eq]
  exact { hs with }

/-- Run may move between Stopped and Running: there is no fault record in either. -/
theorem withRun_inv {s : State} {r : RunState} (hs : MachineInv s) (hsafe : s.safe) (hr : r ≠ .faulted) :
    MachineInv { s with run := r } :=
  { hs with faultIff := by simp [hs.fault_eq_none hsafe, hr] }

theorem runOp_faulted {s : State} (h : s.run = .faulted) : runOp s = s := by
  rw [runOp, h]

theorem stopOp_faulted {s : State} (h : s.run = .faulted) : stopOp s = s := by
  rw [stopOp, h]

theorem runOp_inv {s : State} (hs : MachineInv s) : MachineInv (runOp s) := by
  by_cases hrun : s.run = .faulted
  · rwa [runOp_faulted hrun]
  · rw [runOp_safe hrun]
    exact withRun_inv hs hrun nofun

theorem stopOp_inv {s : State} (hs : MachineInv s) : MachineInv (stopOp s) := by
  by_cases hrun : s.run = .faulted
  · rwa [stopOp_faulted hrun]
  · rw [stopOp_safe hrun]
    exact withRun_inv hs hrun nofun

/-- `reset` answers the construction state but for the memory, which Rom has been copied to, and Rom. -/
theorem resetOp_inv {s : State} (hs : MachineInv s) : MachineInv (resetOp s) :=
  { constructed_inv s.font hs.depthPositive with
    memory := resetOp_wf s
    romFits := hs.romFits }

theorem setKey_inv {k : Nat} {b : Bool} {s t : State} (hs : MachineInv s) (h : setKey k b s = .next t) : MachineInv t := by
  obtain ⟨ks, rfl⟩ := setKey_next h
  exact { hs with }

theorem loadProgram_inv {s : State} (bytes : List Byte) (base : Nat) (hs : MachineInv s) :
    MachineInv (loadProgram bytes base s).1 := by
  by_cases hfit : base + bytes.length ≤ memSize
  · rw [loadProgram_fits s hfit]
    exact { hs with
      memory := Memory.wf_load bytes s.mem base hs.memory
      romFits := hfit }
  · rw [loadProgram_tooLarge s (by omega)]
    exact hs

theorem apply_inv {q : Nat} {c : HostCall} {s t : State} (hs : MachineInv s) (h : c.apply q s = .next t) :
    MachineInv t := by
  cases c with
  | reset => cases h; exact resetOp_inv hs
  | run => cases h; exact runOp_inv hs
  | stop => cases h; exact stopOp_inv hs
  | step => exact stepKeepsInvariant s t hs h
  | tick => exact tickWith_keeps (P := MachineInv) (fun _ => countTimers_inv) stepKeepsInvariant hs h
  | setKey k b => exact setKey_inv hs h
  | loadProgram bytes base => cases h; exact loadProgram_inv bytes base hs

/-- Settles O58, by induction on the calls: each keeps the invariant. -/
theorem hostRunsKeepInvariant : Obligations.HostRunsKeepInvariant := by
  unfold Obligations.HostRunsKeepInvariant
  exact fun q cs s t => applyCalls_keeps fun c u v => apply_inv

/-! ## The run state (R145, R149) -/

/-- Run is the same in `t` as in `s`, or a fault has been taken. -/
def KeepsRunOrFaults (s t : State) : Prop := t.run = s.run ∨ t.run = .faulted

theorem KeepsRunOrFaults.trans {s t u : State} (h : KeepsRunOrFaults s t) (h' : KeepsRunOrFaults t u) :
    KeepsRunOrFaults s u := by
  obtain hsame | hfaulted := h'
  · rwa [KeepsRunOrFaults, hsame]
  · exact .inr hfaulted

theorem step_run {s t : State} (h : step s = .next t) : KeepsRunOrFaults s t := by
  obtain rfl | ⟨-, h⟩ := step_cases h
  · exact .inl rfl
  obtain ⟨e, -, he⟩ | ⟨op, -, -, he⟩ | ⟨op, ins, -, -, he⟩ := exec1_cases s
  · cases he.symm.trans h
    exact .inr rfl
  · cases he.symm.trans h
    exact .inl rfl
  · obtain hok | ⟨e, -, rfl⟩ := exec_cases (he.symm.trans h)
    · exact .inl (effectOf_opc_run hok).2
    · exact .inr rfl

theorem tickWith_run {q : Nat} {s t : State} (h : tickWith q s = .next t) : KeepsRunOrFaults s t := by
  have hcount (u : State) : KeepsRunOrFaults u u.countTimers := .inl (by rw [countTimers_eq])
  exact tickWith_keeps (fun u hu => hu.trans (hcount u)) (fun _ _ hu hv => hu.trans (step_run hv)) (.inl rfl) h

/-- Of a Faulted machine, a call other than reset writes the keypad, memory and Rom at most (decision D9). -/
theorem apply_faulted {q : Nat} {c : HostCall} {s t : State} (hrun : s.run = .faulted) (hc : c ≠ .reset)
    (h : c.apply q s = .next t) : ∃ ks m rom, t = { s with keys := ks, mem := m, rom := rom } := by
  cases c with
  | reset => exact absurd rfl hc
  | run =>
    cases h
    exact ⟨_, _, _, runOp_faulted hrun⟩
  | stop =>
    cases h
    exact ⟨_, _, _, stopOp_faulted hrun⟩
  | step =>
    cases (step_faulted hrun).symm.trans h
    exact ⟨_, _, _, rfl⟩
  | tick =>
    cases (tickWith_faulted hrun).symm.trans h
    exact ⟨_, _, _, rfl⟩
  | setKey k b =>
    obtain ⟨ks, rfl⟩ := setKey_next h
    exact ⟨ks, _, _, rfl⟩
  | loadProgram bytes base =>
    cases h
    obtain ⟨m, rom, hload⟩ := loadProgram_state bytes base s
    exact ⟨_, m, rom, hload⟩

theorem withRun_frame (s : State) (r : RunState) : Frame (fun p => p = .run) s { s with run := r } := by
  intro p hp
  cases p with
  | run => exact absurd rfl hp
  | _ => rfl

/-- Settles O12: `reset` and the Faulted column first, then one clause per call from a machine that is not Faulted. -/
theorem runStateTransitions : Obligations.RunStateTransitions := by
  unfold Obligations.RunStateTransitions
  intro q c s t h
  refine ⟨?_, fun hrun hc => ?_, fun hsafe => ⟨?_, ?_, ?_, ?_, ?_⟩⟩
  · rintro rfl
    cases h
    rfl
  · obtain ⟨ks, m, rom, rfl⟩ := apply_faulted hrun hc h
    exact hrun
  · rintro rfl
    cases h
    rw [runOp_safe hsafe]
    exact ⟨rfl, withRun_frame s .running⟩
  · rintro rfl
    cases h
    rw [stopOp_safe hsafe]
    exact ⟨rfl, withRun_frame s .stopped⟩
  · rintro (rfl | rfl)
    · exact step_run h
    · exact tickWith_run h
  · rintro k b rfl
    obtain ⟨ks, rfl⟩ := setKey_next h
    rfl
  · rintro bytes base rfl
    cases h
    obtain ⟨m, rom, hload⟩ := loadProgram_state bytes base s
    rw [hload]

/-! ## A parked program (R162, 41_control_flow.md R172) -/

theorem opc_frame (s : State) (op : Word) : Frame (fun p => p = .opc) s { s with opc := op } := by
  intro p hp
  cases p with
  | opc => exact absurd rfl hp
  | _ => rfl

/-- The jump of a parked program undoes the fetch's advance of PC. -/
theorem jump_advance_parked {s : State} {a : Addr12} (op : Word) (hpc : s.pc = a.setWidth 16) :
    (s.advance op).jump (absolute a) = { s with opc := op } := by
  rw [State.jump, State.advance, absolute, ← hpc]

theorem step_parked {s : State} {a : Addr12} (h : s.parkedAt a) :
    step s = .next { s with opc := encode (.op1NNN a) } := by
  obtain ⟨hsafe, hpc, hf⟩ := h
  calc step s = exec (.op1NNN a) s := (step_safe hsafe).trans (exec1_decoded hf (decode_encode _))
    _ = .next ((s.advance (encode (.op1NNN a))).jump (absolute a)) := exec_of_ok rfl
    _ = .next { s with opc := encode (.op1NNN a) } := by rw [jump_advance_parked _ hpc]

/-- Settles O47: a write of OPC alone leaves the machine parked. -/
theorem parkedStaysParked : Obligations.ParkedStaysParked := by
  unfold Obligations.ParkedStaysParked
  intro s a h
  exact ⟨_, step_parked h, opc_frame s _, rfl, h⟩

/-! ## The keypad (R156) -/

theorem keys_frame (s : State) (ks : Vector Bool 16) : Frame (fun p => p = .keys) s { s with keys := ks } := by
  intro p hp
  cases p with
  | keys => exact absurd rfl hp
  | _ => rfl

/-- Settles O51: a slot that exists is one entry of the keypad, and the others read as before. -/
theorem setKeyWritesOneSlot : Obligations.SetKeyWritesOneSlot := by
  unfold Obligations.SetKeyWritesOneSlot
  intro k b s
  refine ⟨fun hk => ⟨_, dif_pos hk, keys_frame s _, ?_, fun j hj => ?_⟩, fun hk => dif_neg (by omega)⟩
  · exact Vector.getElem_set_self hk
  · exact Vector.getElem_set_ne hk j.isLt hj.symm

end Sys2Proof.Machine
end

section
/-! PROOFS. The shape of a statement about one instruction: its row of the table, its completion and its fault, each read off
the instruction's effect. -/

namespace Sys2Proof.Machine

/-- The row of a name is a row of the table, so its words decode to what it builds (30_encoding.md R105). -/
theorem encoded_of_mnemonic {name : String} {r : Row} (h : opcodeTable.find? (fun q => q.mnemonic == name) = some r) :
    Encoded r.pattern r.mask r.build :=
  fun _ hop => decode_of_masked (List.mem_of_find?_eq_some h) hop

section
variable {ins : Instr} {s t : State}

/-- An instruction whose effect succeeds completes, within any parts that hold those the table lets its effect write. -/
theorem completes_of_ok {may : Part → Prop} (h : effectOf ins (s.advance (encode ins)) = .ok t)
    (hmay : ∀ p, mayWrite ins p → fetchParts p ∨ may p) : Completes ins s t may :=
  ⟨exec_of_ok h, (effectOf_opc_run h).1,
    ((advance_frame s _).mono fun _ => .inl).trans ((effectOf_writes h).frame.mono hmay)⟩

/-- An instruction whose effect succeeds and can write PC only changes no part but the two the fetch writes. -/
theorem completes_of_ok_pc (h : effectOf ins (s.advance (encode ins)) = .ok t) (hmay : ∀ p, mayWrite ins p → p = .pc) :
    Completes ins s t (fun _ => False) :=
  completes_of_ok h fun p hp => .inl (.inr (hmay p hp))

theorem takesFault_of_error {e : Raise} (h : effectOf ins (s.advance (encode ins)) = .error e) :
    TakesFault ins s e.kind e.addr :=
  exec_of_error h

/-- From a PC past the last address that holds an opcode, the fetch faults at the first byte outside memory. -/
theorem fetch_pastEnd (h : 0xFFE < t.pc.toNat) : fetch t = .error (outOfRange (max t.pc.toNat 0x1000)) :=
  fetch_outside t (Nat.succ_le_succ h)

end

end Sys2Proof.Machine
end

section
/-! PROOFS. The returns, jumps, calls and skips (41_control_flow.md): where each leaves PC and the call stack. -/

namespace Sys2Proof.Machine

/-! ## Call and return (R170, R174) -/

section
variable {s : State} {nnn : Addr12}

theorem call_completes (h : s.stack.length ≠ s.stackDepth) :
    ∃ t, Completes (.op2NNN nnn) s t (fun p => p = .stack) ∧ t.pc = absolute nnn ∧ t.stack = s.stack ++ [s.pc + 2] := by
  have hpush := push_room (s.advance (encode (.op2NNN nnn))) (s.pc + 2) h
  exact ⟨_, completes_of_ok (by simp only [effectOf, State.advance_pc, hpush]; rfl) fun _ hp => hp.imp_left .inr, rfl, rfl⟩

theorem call_overflows (h : s.stack.length = s.stackDepth) : TakesFault (.op2NNN nnn) s .stackOverflow none := by
  have hpush := push_full (s.advance (encode (.op2NNN nnn))) (s.pc + 2) h
  exact takesFault_of_error (e := ⟨.stackOverflow, none⟩) (by simp only [effectOf, State.advance_pc, hpush])

theorem return_completes {ws : List Word} {w : Word} (h : s.stack = ws ++ [w]) :
    ∃ t, Completes .op00EE s t (fun p => p = .stack) ∧ t.pc = w ∧ t.stack = ws := by
  have hpop := pop_entry (s.advance (encode .op00EE)) ws w h
  exact ⟨_, completes_of_ok (by simp only [effectOf, hpop]; rfl) fun _ hp => hp.imp_left .inr, rfl, rfl⟩

theorem return_underflows (h : s.stack = []) : TakesFault .op00EE s .stackUnderflow none := by
  have hpop := pop_empty (s.advance (encode .op00EE)) h
  exact takesFault_of_error (e := ⟨.stackUnderflow, none⟩) (by simp only [effectOf, hpop])

end

/-- Settles O22: the return address is the top entry of the stack the call left, with the caller's stack below it. -/
theorem callThenReturnRestores : Obligations.CallThenReturnRestores := by
  unfold Obligations.CallThenReturnRestores
  intro nnn s u hroom
  obtain ⟨t, ⟨hcall, -⟩, -, hstack⟩ := call_completes (nnn := nnn) hroom.ne
  refine ⟨t, hcall, fun hu => ?_⟩
  obtain ⟨w, ⟨hreturn, -⟩, hw⟩ := return_completes (hu.trans hstack)
  exact ⟨w, hreturn, hw⟩

/-- Settles O20: room on the stack and a full stack are the two answers of `push`. -/
theorem callPushesReturnAddress : Obligations.CallPushesReturnAddress := by
  unfold Obligations.CallPushesReturnAddress
  refine ⟨encoded_of_mnemonic (name := "2NNN") rfl, fun nnn s => ⟨fun hroom => ?_, call_overflows⟩⟩
  obtain ⟨t, hcall, hpc, hstack⟩ := call_completes (nnn := nnn) hroom
  exact ⟨t, hcall, hpc ▸ absolute_toNat nnn, hstack⟩

/-- Settles O21: a top entry and an empty stack are the two answers of `pop`. -/
theorem returnPopsTopEntry : Obligations.ReturnPopsTopEntry := by
  unfold Obligations.ReturnPopsTopEntry
  exact ⟨encoded_of_mnemonic (name := "00EE") rfl, fun _ => ⟨fun _ _ => return_completes, return_underflows⟩⟩

/-! ## Jumps (R172, R186) -/

/-- Settles O19: a jump's state is the fetch's with the target in PC, and a target that is the jump's own address undoes the
fetch's advance. -/
theorem jumpTargets : Obligations.JumpTargets := by
  unfold Obligations.JumpTargets
  refine ⟨encoded_of_mnemonic (name := "1NNN") rfl, encoded_of_mnemonic (name := "BNNN") rfl, fun nnn s => ⟨?_, ?_⟩⟩
  · refine ⟨_, completes_of_ok_pc rfl fun _ => id, absolute_toNat nnn, ?_, fun hself => ?_⟩
    · rintro rfl
      exact fetch_pastEnd (show 0xFFE < (absolute 0xFFF).toNat by decide)
    · rw [jump_advance_parked _ (BitVec.eq_of_toNat_eq (hself.trans (absolute_toNat nnn).symm))]
      exact opc_frame s _
  · exact ⟨_, completes_of_ok_pc rfl fun _ => id, offsetTarget_toNat s nnn, fetch_pastEnd⟩

/-! ## Skips (R176, R178, R180, R182, R184) -/

section
variable (s : State) (op : Word) (a b : Byte)

/-- A skip taken moves PC 4 past the instruction, the fetch's 2 and its own 2. -/
theorem skip_pc (c : Bool) : ((s.advance op).skipIf c).pc = if c then s.pc + 4 else s.pc + 2 := by
  rw [State.skipIf_pc, State.advance_pc, BitVec.add_assoc]
  rfl

theorem skipOnEqual_pc : ((s.advance op).skipIf (a == b)).pc = if a = b then s.pc + 4 else s.pc + 2 := by
  simp only [skip_pc, beq_iff_eq]

theorem skipOnDifferent_pc : ((s.advance op).skipIf (a != b)).pc = if a = b then s.pc + 2 else s.pc + 4 := by
  simp only [skip_pc, bne_iff_ne, ite_not]

end

/-- Settles O23: PC is the skip's, and past 0xFFE the fetch is outside memory wherever PC came from. -/
theorem skipOnImmediate : Obligations.SkipOnImmediate := by
  unfold Obligations.SkipOnImmediate
  refine ⟨encoded_of_mnemonic (name := "3XNN") rfl, encoded_of_mnemonic (name := "4XNN") rfl, fun x nn s => ⟨?_, ?_⟩⟩
  · exact ⟨_, completes_of_ok_pc rfl fun _ => id, skipOnEqual_pc s _ (s.reg x) nn, fetch_pastEnd⟩
  · exact ⟨_, completes_of_ok_pc rfl fun _ => id, skipOnDifferent_pc s _ (s.reg x) nn, fetch_pastEnd⟩

/-- Settles O24: the same two skips, with a register as the second operand. -/
theorem skipOnRegisters : Obligations.SkipOnRegisters := by
  unfold Obligations.SkipOnRegisters
  refine ⟨encoded_of_mnemonic (name := "5XY0") rfl, encoded_of_mnemonic (name := "9XY0") rfl, fun x y s => ⟨?_, ?_⟩⟩
  · exact ⟨_, completes_of_ok_pc rfl fun _ => id, skipOnEqual_pc s _ (s.reg x) (s.reg y)⟩
  · exact ⟨_, completes_of_ok_pc rfl fun _ => id, skipOnDifferent_pc s _ (s.reg x) (s.reg y)⟩

end Sys2Proof.Machine
end

section
/-! PROOFS. The register and arithmetic/logic instructions (42_alu.md): an instruction of one register write, and one that
writes its flag to VF and then its result, read off the effect; each statement supplies the flag and the result as numbers. -/

namespace Sys2Proof.Machine

/-! ## One register written -/

section
variable {ins : Instr} {s : State} {x y : Reg}

theorem setReg_completes {b : Byte} (h : effectOf ins (s.advance (encode ins)) = .ok ((s.advance (encode ins)).setReg x b))
    (hmay : ∀ p, mayWrite ins p → p = .v x) :
    ∃ t, Completes ins s t (fun p => p = .v x) ∧ t.pc = s.pc + 2 ∧ t.reg x = b :=
  ⟨_, completes_of_ok h fun p hp => .inr (hmay p hp), rfl, State.reg_setReg_same ..⟩

/-! ## The flag, then the result (00_scope.md R12) -/

/-- `c` is the flag and `result p q` the result from the operands `p` and `q`, as numbers. The flag is written before the
result reads V[x] and V[y], so it stands for each operand that is VF, and the result, written last, is what VF keeps where
x = VF. -/
theorem flagThenResult_completes {flag resultByte : Byte → Byte → Byte} {result : Nat → Nat → Nat} {c d : Nat}
    (h : effectOf ins (s.advance (encode ins)) = .ok ((s.advance (encode ins)).flagThenResult x y flag resultByte))
    (hmay : ∀ p, mayWrite ins p → p = .v VF ∨ p = .v x) (hflag : (flag (s.reg x) (s.reg y)).toNat = c)
    (hresult : ∀ p q, (resultByte p q).toNat = result p.toNat q.toNat) (hsame : result c c = d) :
    ∃ t, Completes ins s t (fun p => p = .v x ∨ p = .v VF) ∧ t.pc = s.pc + 2 ∧
      (x ≠ VF → y ≠ VF → (t.reg x).toNat = result (s.reg x).toNat (s.reg y).toNat ∧ (t.reg VF).toNat = c) ∧
      (x = VF → y ≠ VF → (t.reg VF).toNat = result c (s.reg y).toNat) ∧
      (x ≠ VF → y = VF → (t.reg x).toNat = result (s.reg x).toNat c ∧ (t.reg VF).toNat = c) ∧
      (x = VF → y = VF → (t.reg VF).toNat = d) := by
  refine ⟨_, completes_of_ok h fun p hp => .inr (hmay p hp).symm, rfl, fun hx hy => ?_, fun hx hy => ?_, fun hx hy => ?_,
    fun hx hy => ?_⟩
  · simp [State.flagThenResult_reg, hx, hx.symm, hy, hflag, hresult]
  · subst hx
    simp [State.flagThenResult_reg, hy, hflag, hresult]
  · subst hy
    simp [State.flagThenResult_reg, hx, hx.symm, hflag, hresult]
  · subst hx hy
    simp [State.flagThenResult_reg, hflag, hresult, hsame]

/-- The same pair of statements where the only operand is V[x]. -/
theorem flagThenShift_completes {flag shifted : Byte → Byte} {shift : Nat → Nat} {c d : Nat}
    (h : effectOf ins (s.advance (encode ins)) =
      .ok ((s.advance (encode ins)).flagThenResult x x (fun a _ => flag a) (fun a _ => shifted a)))
    (hmay : ∀ p, mayWrite ins p → p = .v VF ∨ p = .v x) (hflag : (flag (s.reg x)).toNat = c)
    (hshift : ∀ p, (shifted p).toNat = shift p.toNat) (hsame : shift c = d) :
    ∃ t, Completes ins s t (fun p => p = .v x ∨ p = .v VF) ∧ t.pc = s.pc + 2 ∧
      (x ≠ VF → (t.reg x).toNat = shift (s.reg x).toNat ∧ (t.reg VF).toNat = c) ∧
      (x = VF → (t.reg VF).toNat = d) := by
  obtain ⟨t, hcompletes, hpc, hplain, -, -, hVF⟩ :=
    flagThenResult_completes (result := fun p _ => shift p) h hmay hflag (fun p _ => hshift p) hsame
  exact ⟨t, hcompletes, hpc, fun hx => hplain hx hx, fun hx => hVF hx hx⟩

end

/-! ## Loads, copies and bitwise operations (R200, R202, R204, R206, R208, R210) -/

/-- Settles O13: each is one write of V[x], and the sum's byte is the sum mod 256. -/
theorem loadAndAddImmediate : Obligations.LoadAndAddImmediate := by
  unfold Obligations.LoadAndAddImmediate
  refine ⟨encoded_of_mnemonic (name := "6XNN") rfl, encoded_of_mnemonic (name := "7XNN") rfl, fun x nn s => ⟨?_, ?_⟩⟩
  · exact setReg_completes rfl fun _ => id
  · obtain ⟨t, hcompletes, hpc, hx⟩ := setReg_completes (ins := .op7XNN x nn) (s := s) rfl fun _ => id
    exact ⟨t, hcompletes, hpc, hx ▸ sumByte_toNat (s.reg x) nn⟩

/-- 8XYF is in R108's table: family 0x8 with an N that no row has. -/
theorem decode_8XYF {op : Word} (h : op &&& 0xF00F = 0x800F) : decode op = .error .unknownOpcode := by
  obtain ⟨hfamily, hN⟩ := (masked_eq_iff_familyN rfl).1 h
  have halu : op &&& 0xF000 = 0x8000 := (masked_eq_iff_family rfl).2 hfamily
  exact (unknownWordsAreThoseListed op).2 (.inr (.inr (.inl ⟨halu, by rw [hN]; decide⟩)))

/-- Settles O14: each of the four is one write of V[x], and 8XYF is one of R108's words. -/
theorem copyAndBitwise : Obligations.CopyAndBitwise := by
  unfold Obligations.CopyAndBitwise
  refine ⟨encoded_of_mnemonic (name := "8XY0") rfl, encoded_of_mnemonic (name := "8XY1") rfl,
    encoded_of_mnemonic (name := "8XY2") rfl, encoded_of_mnemonic (name := "8XY3") rfl, fun _ => decode_8XYF,
    fun x y s => ⟨?_, ?_, ?_, ?_⟩⟩
  · exact setReg_completes rfl fun _ => id
  · exact setReg_completes rfl fun _ => id
  · exact setReg_completes rfl fun _ => id
  · exact setReg_completes rfl fun _ => id

/-! ## Sums, differences and shifts (R212, R214, R216, R218, R220) -/

/-- Settles O15: a carry added to itself is 2, which does not wrap. -/
theorem addWithCarry : Obligations.AddWithCarry := by
  unfold Obligations.AddWithCarry
  refine ⟨encoded_of_mnemonic (name := "8XY4") rfl, fun x y s => ?_⟩
  exact flagThenResult_completes (result := fun p q => (p + q) % 256) rfl (fun _ => id) (carryFlag_toNat ..) sumByte_toNat
    (by split <;> rfl)

/-- Settles O16: a flag subtracted from itself leaves 0. -/
theorem subtractWithNoBorrowFlag : Obligations.SubtractWithNoBorrowFlag := by
  unfold Obligations.SubtractWithNoBorrowFlag
  refine ⟨encoded_of_mnemonic (name := "8XY5") rfl, encoded_of_mnemonic (name := "8XY7") rfl, fun x y s => ⟨?_, ?_⟩⟩
  · exact flagThenResult_completes (result := fun p q => (p + 256 - q) % 256) rfl (fun _ => id) (noBorrowFlag_toNat ..)
      differenceByte_toNat (by split <;> rfl)
  · exact flagThenResult_completes (result := fun p q => (q + 256 - p) % 256) rfl (fun _ => id) (noBorrowFlag_toNat ..)
      (fun p q => differenceByte_toNat q p) (by split <;> rfl)

theorem highBitFlag_toNat_eq_div (a : Byte) : (highBitFlag a).toNat = a.toNat / 128 := by
  have ha := a.isLt
  rw [highBitFlag_toNat]
  split <;> omega

/-- Settles O17: with x = VF the flag is what is shifted, a bit, so halving it leaves 0 and doubling it does not wrap. -/
theorem shiftByOne : Obligations.ShiftByOne := by
  unfold Obligations.ShiftByOne
  refine ⟨encoded_of_mnemonic (name := "8XY6") rfl, encoded_of_mnemonic (name := "8XYE") rfl, fun x y s => ⟨?_, ?_⟩⟩
  · have hhalf (p : Byte) : (p >>> (1 : Nat)).toNat = p.toNat / 2 := by
      rw [BitVec.toNat_ushiftRight, Nat.shiftRight_one]
    exact flagThenShift_completes (shift := (· / 2)) rfl (fun _ => id) (lowBitFlag_toNat _) hhalf (by omega)
  · have hx := (s.reg x).isLt
    exact flagThenShift_completes (shift := (· * 2 % 256)) rfl (fun _ => id) (highBitFlag_toNat_eq_div _)
      (fun _ => mod256_toNat _) (by omega)

/-! ## The random byte (R222) -/

/-- Settles O18: nothing is said of the draw's byte; a bit of a conjunction is 0 where NN's is. -/
theorem randomMaskedByte : Obligations.RandomMaskedByte := by
  unfold Obligations.RandomMaskedByte
  refine ⟨encoded_of_mnemonic (name := "CXNN") rfl, fun x nn s => ?_⟩
  refine ⟨_, completes_of_ok rfl fun _ hp => .inr hp.symm, rfl, State.reg_setReg_same .., rfl, fun k hk => ?_⟩
  rw [State.reg_setReg_same, BitVec.getLsbD_and, hk, Bool.and_false]

end Sys2Proof.Machine
end

section
/-! PROOFS. The index register and memory instructions (43_index_memory.md): what I holds after a load or an addition, and a
block of bytes stored or loaded at I, with the fault of a block that leaves memory. -/

namespace Sys2Proof.Machine

/-! ## Loads of I (R240, R244) -/

/-- Settles O25: each is one write of I, and neither value is cut to fewer bits than it has. -/
theorem indexLoads : Obligations.IndexLoads := by
  unfold Obligations.IndexLoads
  refine ⟨encoded_of_mnemonic (name := "ANNN") rfl, encoded_of_mnemonic (name := "FX29") rfl, fun nnn x s => ⟨?_, ?_⟩⟩
  · exact ⟨_, completes_of_ok rfl fun _ => .inr, rfl, absolute_toNat nnn⟩
  · exact ⟨_, completes_of_ok rfl fun _ => .inr, rfl, glyphAddress_toNat (s.reg x)⟩

/-! ## Addition to I (R242) -/

section
variable (s : State) (x : Reg)

theorem State.addToIndex_reg_VF : (s.addToIndex x).reg VF = indexOverflowFlag s.i (s.reg x) :=
  State.reg_setReg_same ..

/-- The sum reads V[x] after VF has been written, so with x = VF it takes the flag (00_scope.md R12). -/
theorem State.addToIndex_i_toNat :
    (s.addToIndex x).i.toNat =
      (s.i.toNat + if x = VF then (indexOverflowFlag s.i (s.reg x)).toNat else (s.reg x).toNat) % 0x1000 := by
  rw [← apply_ite BitVec.toNat, ← State.reg_setReg]
  exact mod4096_toNat _

end

/-- Settles O26: VF keeps the overflow flag, since the second statement writes I only. -/
theorem addToIndexWraps : Obligations.AddToIndexWraps := by
  unfold Obligations.AddToIndexWraps
  refine ⟨encoded_of_mnemonic (name := "FX1E") rfl, fun x s => ?_⟩
  refine ⟨(s.advance (encode (.opFX1E x))).addToIndex x, completes_of_ok rfl fun _ hp => .inr hp.symm, rfl, ?_, fun hx => ?_,
    fun hx => ?_⟩
  · rw [State.addToIndex_reg_VF]
    exact indexOverflowFlag_toNat ..
  · rw [State.addToIndex_i_toNat, if_neg hx]
    rfl
  · rw [State.addToIndex_i_toNat, if_pos hx, indexOverflowFlag_toNat]
    rfl

/-! ## A block stored at I (R246, R248) -/

section
variable {ins : Instr} {s : State} {bs : List Byte}

/-- From its fetch on, a store changes memory at the block's addresses and no other part. -/
theorem stored_frame (hfit : s.dataAddress + bs.length ≤ memSize) :
    Frame (fun p => ∃ k < bs.length, p = .mem (s.dataAddress + k)) (s.advance (encode ins)) (s.stored ins bs) := by
  intro p hp
  cases p with
  | mem a => exact Memory.get_load_off hfit fun k hk ha => hp ⟨k, hk, ha ▸ rfl⟩
  | _ => rfl

theorem store_completes (h : Stores ins s bs) (hfit : s.dataAddress + bs.length ≤ memSize) :
    Completes ins s (s.stored ins bs) (fun p => ∃ k < bs.length, p = .mem (s.dataAddress + k)) :=
  ⟨exec_stored h hfit, rfl, ((advance_frame s _).mono fun _ => .inl).trans ((stored_frame hfit).mono fun _ => .inr)⟩

theorem store_takesFault (h : Stores ins s bs) (hbs : bs ≠ []) (hout : memSize < s.dataAddress + bs.length) :
    TakesFault ins s .outOfRangeAccess (some (max s.dataAddress 0x1000)) :=
  takesFault_of_error (h.trans (writeBytes_outside bs _ _ hout hbs))

end

/-- Settles O27: a block store of the three digits. -/
theorem storeDecimalDigits : Obligations.StoreDecimalDigits := by
  unfold Obligations.StoreDecimalDigits
  refine ⟨encoded_of_mnemonic (name := "FX33") rfl, fun x s => ⟨fun hin => ?_, fun hout => ?_⟩⟩
  · exact ⟨_, store_completes (stores_opFX33 x s) hin, rfl, get_load_decimalDigits hin⟩
  · exact store_takesFault (stores_opFX33 x s) (by simp [decimalDigits]) (Nat.lt_succ_of_le hout)

section
variable {s : State} {x : Reg}

/-- The block V0..VX lies in memory where its last byte does. -/
theorem regBlock_fits (h : s.dataAddress + x.val < memSize) : s.dataAddress + (s.regBlock x).length ≤ memSize := by
  rw [State.regBlock_length]
  exact h

theorem storeBlock_completes (h : s.dataAddress + x.val < memSize) :
    Completes (.opFX55 x) s (s.stored (.opFX55 x) (s.regBlock x))
      (fun p => ∃ k, k ≤ x.val ∧ p = .mem (s.dataAddress + k)) := by
  have hstore := store_completes (stores_opFX55 x s) (regBlock_fits h)
  simpa only [State.regBlock_length, Nat.lt_succ_iff] using hstore

end

/-- Settles O28: a block store of V0..VX. -/
theorem storeRegisterBlock : Obligations.StoreRegisterBlock := by
  unfold Obligations.StoreRegisterBlock
  refine ⟨encoded_of_mnemonic (name := "FX55") rfl, fun x s => ⟨fun hin => ?_, fun hout => ?_⟩⟩
  · exact ⟨_, storeBlock_completes hin, rfl, fun k hk => get_load_regBlock (regBlock_fits hin) hk⟩
  · have hlen : (s.regBlock x).length = x.val + 1 := State.regBlock_length s x
    exact store_takesFault (stores_opFX55 x s) (List.ne_nil_of_length_eq_add_one hlen) (by omega)

/-! ## A block loaded from I (R250) -/

section
variable {s : State} {x : Reg}

/-! FX65 answers what its block read answers, with V0 and up written where that gives bytes. -/

theorem effectOf_opFX65_of_ok {bs : List Byte} (h : readBytes s s.dataAddress (x.val + 1) = .ok bs) :
    effectOf (.opFX65 x) s = .ok (s.setRegsFrom 0 bs) := by
  rw [effectOf, h]

theorem effectOf_opFX65_of_error {e : Raise} (h : readBytes s s.dataAddress (x.val + 1) = .error e) :
    effectOf (.opFX65 x) s = .error e := by
  rw [effectOf, h]

/-- A block written from V0 up gives each register the byte of its number. -/
theorem State.setRegsFrom_zero_reg {n : Nat} {f : Nat → Byte} {k : Reg} (hk : k.val < n) :
    (s.setRegsFrom 0 ((List.range n).map f)).reg k = f k.val := by
  rw [State.setRegsFrom_reg, dif_pos ⟨k.val.zero_le, by simpa using hk⟩]
  simp

theorem loadBlock_completes (h : s.dataAddress + x.val < memSize) :
    ∃ t, Completes (.opFX65 x) s t (fun p => ∃ k : Reg, k ≤ x ∧ p = .v k) ∧ t.pc = s.pc + 2 ∧
      ∀ k : Reg, k ≤ x → t.reg k = s.mem.get (s.dataAddress + k.val) := by
  have hok := effectOf_opFX65_of_ok (readBytes_inside (x.val + 1) (s.advance (encode (.opFX65 x))) _ h)
  have hpc := (effectOf_writes hok).frame .pc (by simp [mayWrite])
  exact ⟨_, completes_of_ok hok fun _ => .inr, hpc, fun k hk => State.setRegsFrom_zero_reg (Nat.lt_succ_of_le hk)⟩

theorem loadBlock_takesFault (h : memSize ≤ s.dataAddress + x.val) :
    TakesFault (.opFX65 x) s .outOfRangeAccess (some (max s.dataAddress 0x1000)) :=
  takesFault_of_error (effectOf_opFX65_of_error
    (readBytes_outside _ (s.advance _) _ (Nat.lt_succ_of_le h) x.val.succ_pos))

end

/-- Settles O29: a block read inside memory and one that leaves it are the two answers of `readBytes`. -/
theorem loadRegisterBlock : Obligations.LoadRegisterBlock := by
  unfold Obligations.LoadRegisterBlock
  exact ⟨encoded_of_mnemonic (name := "FX65") rfl, fun _ _ => ⟨loadBlock_completes, loadBlock_takesFault⟩⟩

/-- Settles O30: the load reads each register's byte from the address where the store has put it, for I is the same. -/
theorem storeThenLoadRestoresRegisters : Obligations.StoreThenLoadRestoresRegisters := by
  unfold Obligations.StoreThenLoadRestoresRegisters
  intro x s u hin
  obtain ⟨hstore, -⟩ := storeBlock_completes hin
  refine ⟨_, hstore, fun hmem hi => ?_⟩
  have haddr : u.dataAddress = s.dataAddress := congrArg BitVec.toNat hi
  obtain ⟨w, ⟨hload, -⟩, -, hreg⟩ := loadBlock_completes (s := u) (x := x) (haddr ▸ hin)
  refine ⟨w, hload, fun k hk => ?_⟩
  rw [hreg k hk, hmem, haddr]
  exact get_load_regBlock (regBlock_fits hin) hk

end Sys2Proof.Machine
end

section
/-! PROOFS. The display instructions (44_display.md): the pixels a sprite's bytes cover and where the draw collides, the one
state a draw can complete in, and a draw repeated at the same place. -/

namespace Sys2Proof.Machine

/-! ## Clearing the screen (R270) -/

/-- Settles O32: the blank framebuffer has no pixel on. -/
theorem clearScreen : Obligations.ClearScreen := by
  unfold Obligations.ClearScreen
  exact ⟨encoded_of_mnemonic (name := "00E0") rfl, fun s =>
    ⟨_, completes_of_ok rfl fun _ hp => .inr hp.symm, rfl, pixel_blank, rfl⟩⟩

/-! ## The pixels a sprite covers (R272) -/

section
variable {x0 y0 : Nat} {bs : List Byte} {px : Fin 64} {py : Fin 32}

theorem columnsCover_iff {b : Byte} {n : Nat} :
    columnsCover x0 b n px = true ↔ ∃ c < n, spriteBit b c = true ∧ px = wrapX (x0 + c) := by
  simp [columnsCover]

theorem rowsCover_iff :
    rowsCover x0 y0 bs px py = true ↔
      ∃ r < bs.length, py = wrapY (y0 + r) ∧ columnsCover x0 (bs.getD r 0) 8 px = true := by
  simp [rowsCover]

/-- A row collides where one of the pixels it covers is on. -/
theorem columnsHit_iff {fb : Framebuffer} {b : Byte} {n : Nat} :
    columnsHit fb x0 py b n = true ↔ ∃ px, columnsCover x0 b n px = true ∧ Framebuffer.pixel fb px py = true := by
  simp only [columnsHit, List.any_eq_true, List.mem_range, Bool.and_eq_true, columnsCover_iff]
  constructor
  · rintro ⟨c, hc, hbit, hon⟩
    exact ⟨_, ⟨c, hc, hbit, rfl⟩, hon⟩
  · rintro ⟨_, ⟨c, hc, hbit, rfl⟩, hon⟩
    exact ⟨c, hc, hbit, hon⟩

/-- A sprite collides where one of the pixels it covers is on. -/
theorem rowsHit_iff {fb : Framebuffer} :
    rowsHit fb x0 y0 bs = true ↔ ∃ px py, rowsCover x0 y0 bs px py = true ∧ Framebuffer.pixel fb px py = true := by
  simp only [rowsHit, List.any_eq_true, List.mem_range, columnsHit_iff, rowsCover_iff]
  constructor
  · rintro ⟨r, hr, px, hcover, hon⟩
    exact ⟨px, _, ⟨r, hr, rfl, hcover⟩, hon⟩
  · rintro ⟨px, _, ⟨r, hr, rfl, hcover⟩, hon⟩
    exact ⟨r, hr, px, hcover, hon⟩

end

section
variable {s : State} {x y : Reg} {n : Nibble} {px : Fin 64} {py : Fin 32}

/-- The sprite covers a pixel where a set bit of a row falls on it, wrapped on both axes. -/
theorem spriteCovers_iff :
    s.spriteCovers x y n px py = true ↔
      ∃ r < n.toNat, ∃ c < 8, spriteBit (s.mem.get (s.dataAddress + r)) c = true ∧
        px = wrapX ((s.reg x).toNat + c) ∧ py = wrapY ((s.reg y).toNat + r) := by
  simp [State.spriteCovers, spriteBit, wrapX, wrapY, Fin.ext_iff]

/-- The bytes of a sprite of n rows. -/
def State.spriteRows (s : State) (n : Nibble) : List Byte :=
  (List.range n.toNat).map fun r => s.mem.get (s.dataAddress + r)

@[simp] theorem State.spriteRows_length : (s.spriteRows n).length = n.toNat := by
  simp [State.spriteRows]

theorem State.spriteRows_getD {r : Nat} (hr : r < n.toNat) :
    (s.spriteRows n).getD r 0 = s.mem.get (s.dataAddress + r) := by
  simp [State.spriteRows, hr]

/-- The pixels that the statements say a sprite covers are those that the drawing of its bytes inverts. -/
theorem rowsCover_spriteRows :
    rowsCover (s.reg x).toNat (s.reg y).toNat (s.spriteRows n) px py = s.spriteCovers x y n px py := by
  rw [Bool.eq_iff_iff, rowsCover_iff, spriteCovers_iff, State.spriteRows_length]
  refine exists_congr fun r => and_congr_right fun hr => ?_
  rw [State.spriteRows_getD hr, columnsCover_iff]
  grind

/-- A byte other than 0 has a set bit, in some column. -/
theorem exists_spriteBit_iff {b : Byte} : (∃ c < 8, spriteBit b c = true) ↔ b ≠ 0 := by
  constructor
  · rintro ⟨c, -, hbit⟩ rfl
    simp [spriteBit] at hbit
  · intro hb
    by_contra hnone
    refine hb (BitVec.eq_of_getLsbD_eq fun i hi => ?_)
    have hi' : 7 - (7 - i) = i := by omega
    have hbit : ¬ spriteBit b (7 - i) = true := fun h => hnone ⟨7 - i, by omega, h⟩
    simpa [spriteBit, hi'] using hbit

/-- A sprite covers some pixel exactly where some row has a set bit. -/
theorem exists_spriteCovers_iff :
    (∃ px py, s.spriteCovers x y n px py = true) ↔ ∃ r < n.toNat, s.mem.get (s.dataAddress + r) ≠ 0 := by
  simp only [spriteCovers_iff, ← exists_spriteBit_iff]
  constructor
  · rintro ⟨_, _, r, hr, c, hc, hbit, -⟩
    exact ⟨r, hr, c, hc, hbit⟩
  · rintro ⟨r, hr, c, hc, hbit⟩
    exact ⟨_, _, r, hr, c, hc, hbit, rfl, rfl⟩

/-- What a sprite covers depends on memory, I and the two coordinates only. -/
theorem spriteCovers_congr {u : State} (hmem : u.mem = s.mem) (hi : u.i = s.i) (hx : u.reg x = s.reg x)
    (hy : u.reg y = s.reg y) : u.spriteCovers x y n px py = s.spriteCovers x y n px py := by
  rw [State.spriteCovers, State.spriteCovers, State.dataAddress, State.dataAddress, hmem, hi, hx, hy]

/-! ## The draw (R272) -/

/-- The state with sprite bytes drawn at (V[x], V[y]): the framebuffer, the collision in VF, and the event. -/
def State.withSprite (s : State) (x y : Reg) (bs : List Byte) : State :=
  let d := Drawing.rows (s.reg x).toNat (s.reg y).toNat bs (s.fb, false)
  ({ s with fb := d.1 }.setReg VF (collisionFlag d.2)).emit .framebufferChanged

/-! DXYN answers what its block read answers, with the sprite drawn where that gives bytes. -/

theorem effectOf_opDXYN_of_ok {bs : List Byte} (h : readBytes s s.dataAddress n.toNat = .ok bs) :
    effectOf (.opDXYN x y n) s = .ok (s.withSprite x y bs) := by
  rw [effectOf, h]
  rfl

theorem effectOf_opDXYN_of_error {e : Raise} (h : readBytes s s.dataAddress n.toNat = .error e) :
    effectOf (.opDXYN x y n) s = .error e := by
  rw [effectOf, h]

/-- A sprite of no rows is read without an access, so wherever I points. -/
theorem readBytes_spriteRows (h : n = 0 ∨ s.dataAddress + n.toNat ≤ memSize) :
    readBytes s s.dataAddress n.toNat = .ok (s.spriteRows n) := by
  rcases h with rfl | hfit
  · rfl
  · exact readBytes_inside _ s _ hfit

theorem drawRows_spriteRows (d : Drawing) :
    (∀ px py, Framebuffer.pixel (Drawing.rows (s.reg x).toNat (s.reg y).toNat (s.spriteRows n) d).1 px py =
      (Framebuffer.pixel d.1 px py ^^ s.spriteCovers x y n px py)) ∧
    (Drawing.rows (s.reg x).toNat (s.reg y).toNat (s.spriteRows n) d).2 =
      (d.2 || rowsHit d.1 (s.reg x).toNat (s.reg y).toNat (s.spriteRows n)) := by
  have hlen : (s.spriteRows n).length ≤ 32 := by
    rw [State.spriteRows_length]
    omega
  simpa only [rowsCover_spriteRows] using drawRows (s.spriteRows n) hlen d (s.reg x).toNat (s.reg y).toNat

theorem withSprite_pixel :
    Framebuffer.pixel (s.withSprite x y (s.spriteRows n)).fb px py =
      (Framebuffer.pixel s.fb px py ^^ s.spriteCovers x y n px py) :=
  (drawRows_spriteRows (s.fb, false)).1 px py

/-- The sprite meets a pixel that is on. -/
def State.spriteCollides (s : State) (x y : Reg) (n : Nibble) : Prop :=
  ∃ px py, s.spriteCovers x y n px py = true ∧ Framebuffer.pixel s.fb px py = true

theorem rowsHit_spriteRows_iff :
    rowsHit s.fb (s.reg x).toNat (s.reg y).toNat (s.spriteRows n) = true ↔ s.spriteCollides x y n := by
  simp only [rowsHit_iff, rowsCover_spriteRows, State.spriteCollides]

theorem withSprite_reg_VF :
    (s.withSprite x y (s.spriteRows n)).reg VF =
      flagByte (rowsHit s.fb (s.reg x).toNat (s.reg y).toNat (s.spriteRows n)) := by
  rw [State.withSprite, State.emit_reg, State.reg_setReg_same, (drawRows_spriteRows _).2, Bool.false_or]
  rfl

theorem withSprite_VF_of_collides (h : s.spriteCollides x y n) : (s.withSprite x y (s.spriteRows n)).reg VF = 1 := by
  rw [withSprite_reg_VF, rowsHit_spriteRows_iff.mpr h]
  rfl

theorem withSprite_VF_of_not_collides (h : ¬ s.spriteCollides x y n) :
    (s.withSprite x y (s.spriteRows n)).reg VF = 0 := by
  rw [withSprite_reg_VF, Bool.eq_false_iff.mpr (mt rowsHit_spriteRows_iff.mp h)]
  rfl

/-- A draw whose rows lie in memory, or that has none, completes with the sprite drawn from the state the fetch left. -/
theorem draw_completes (h : n = 0 ∨ s.dataAddress + n.toNat ≤ memSize) :
    Completes (.opDXYN x y n) s ((s.advance (encode (.opDXYN x y n))).withSprite x y (s.spriteRows n))
      (fun p => (∃ px py, p = .pixel px py) ∨ p = .v VF ∨ p = .emitted) :=
  completes_of_ok (effectOf_opDXYN_of_ok (readBytes_spriteRows (s := s.advance _) h))
    fun _ hp => .inr (or_assoc.mpr hp).symm

theorem draw_takesFault (hn : n ≠ 0) (hout : memSize < s.dataAddress + n.toNat) :
    TakesFault (.opDXYN x y n) s .outOfRangeAccess (some (max s.dataAddress 0x1000)) := by
  have hpos : 0 < n.toNat := Nat.pos_of_ne_zero fun h0 => hn (BitVec.eq_of_toNat_eq h0)
  exact takesFault_of_error (effectOf_opDXYN_of_error (readBytes_outside _ (s.advance _) _ hout hpos))

end

/-- Settles O33: no pixel is inverted twice, so each clause reads the framebuffer before the draw. -/
theorem drawSpriteXorsAndDetectsCollision : Obligations.DrawSpriteXorsAndDetectsCollision := by
  unfold Obligations.DrawSpriteXorsAndDetectsCollision
  refine ⟨encoded_of_mnemonic (name := "DXYN") rfl, fun x y n s =>
    ⟨fun hin => ?_, fun ⟨hn, hout⟩ => draw_takesFault hn hout⟩⟩
  refine ⟨_, draw_completes hin, rfl, fun _ _ => ?_, fun hhit => ?_, fun hmiss => ?_, rfl⟩
  · exact withSprite_pixel (s := s.advance _)
  · exact withSprite_VF_of_collides (s := s.advance _) hhit
  · exact withSprite_VF_of_not_collides (s := s.advance _) fun ⟨px, py, hcover, hon⟩ =>
      Bool.false_ne_true ((hmiss px py hcover).symm.trans hon)

/-! ## The same draw again (R272) -/

section
variable {s u : State} {x y : Reg} {n : Nibble}

/-- Inverting the same pixels twice restores the framebuffer. -/
theorem withSprite_fb_of_drawn (hfb : u.fb = (s.withSprite x y (s.spriteRows n)).fb)
    (hcover : ∀ px py, u.spriteCovers x y n px py = s.spriteCovers x y n px py) :
    (u.withSprite x y (u.spriteRows n)).fb = s.fb := by
  refine framebuffer_ext fun px py => ?_
  rw [withSprite_pixel, hfb, withSprite_pixel, hcover, Bool.xor_assoc, Bool.xor_self, Bool.xor_false]

/-- The second draw collides where the first turned a pixel on. -/
theorem spriteCollides_of_drawn (hfb : u.fb = (s.withSprite x y (s.spriteRows n)).fb)
    (hcover : ∀ px py, u.spriteCovers x y n px py = s.spriteCovers x y n px py) :
    u.spriteCollides x y n ↔
      ∃ px py, s.spriteCovers x y n px py = true ∧ Framebuffer.pixel s.fb px py = false := by
  refine exists_congr fun px => exists_congr fun py => ?_
  rw [hcover]
  refine and_congr_right fun hc => ?_
  rw [hfb, withSprite_pixel, hc, Bool.xor_true, Bool.not_eq_true']

end

/-- Settles O34: the second draw starts from the inverted pixels, so it collides where the first met one that was off; over
pixels that were all off, that is wherever the sprite has a set bit. -/
theorem drawTwiceRestoresFramebuffer : Obligations.DrawTwiceRestoresFramebuffer := by
  unfold Obligations.DrawTwiceRestoresFramebuffer
  intro x y n s u hin
  refine ⟨_, (draw_completes (.inr hin)).1, fun hfb hmem hi hx hy => ?_⟩
  have hin' : u.dataAddress + n.toNat ≤ memSize := by rwa [State.dataAddress, hi]
  have hcover : ∀ px py, u.spriteCovers x y n px py = s.spriteCovers x y n px py := fun _ _ =>
    spriteCovers_congr hmem hi hx hy
  set u' := u.advance (encode (.opDXYN x y n))
  have hcollides := spriteCollides_of_drawn (s := s) (u := u') hfb hcover
  refine ⟨u'.withSprite x y (u'.spriteRows n), (draw_completes (.inr hin')).1, withSprite_fb_of_drawn hfb hcover,
    fun hoff => withSprite_VF_of_collides (hcollides.mpr hoff), fun hon => ?_, fun hoff => ?_⟩
  · refine withSprite_VF_of_not_collides (mt hcollides.mp ?_)
    rintro ⟨px, py, hc, h⟩
    exact Bool.false_ne_true (h.symm.trans (hon px py hc))
  · have hset : u'.spriteCollides x y n ↔ ∃ r < n.toNat, s.mem.get (s.dataAddress + r) ≠ 0 := by
      rw [hcollides, ← exists_spriteCovers_iff (x := x) (y := y)]
      exact exists_congr fun px => exists_congr fun py => and_iff_left_of_imp (hoff px py)
    by_cases h : u'.spriteCollides x y n
    · rw [withSprite_VF_of_collides h, if_neg]
      simpa using hset.mp h
    · rw [withSprite_VF_of_not_collides h, if_pos]
      simpa using mt hset.mpr h

end Sys2Proof.Machine
end

section
/-! PROOFS. The keypad and timer instructions (45_input_timers.md): a skip on a key that exists and the fault of one that does
not, the wait for a key and the quota it spends, the timer rule as numbers, and the timers over a run of ticks. -/

namespace Sys2Proof.Machine

/-! ## Skips on a key (R290, R292, R294) -/

section
variable {s : State} {x : Reg}

/-! EX9E and EXA1 answer what the key number in V[x] answers, with the skip made where that names a key. -/

theorem effectOf_opEX9E_of_ok {k : Key} (h : keyOf (s.reg x) = .ok k) :
    effectOf (.opEX9E x) s = .ok (s.skipIf (s.pressed k)) := by
  rw [effectOf, h]

theorem effectOf_opEX9E_of_error {e : Raise} (h : keyOf (s.reg x) = .error e) : effectOf (.opEX9E x) s = .error e := by
  rw [effectOf, h]

theorem effectOf_opEXA1_of_ok {k : Key} (h : keyOf (s.reg x) = .ok k) :
    effectOf (.opEXA1 x) s = .ok (s.skipIf (!s.pressed k)) := by
  rw [effectOf, h]

theorem effectOf_opEXA1_of_error {e : Raise} (h : keyOf (s.reg x) = .error e) : effectOf (.opEXA1 x) s = .error e := by
  rw [effectOf, h]

/-- The skip on a key released, with the pressed case first as in `skip_pc`. -/
theorem skipUnless_pc (op : Word) (c : Bool) :
    ((s.advance op).skipIf (!c)).pc = if c then s.pc + 2 else s.pc + 4 := by
  rw [skip_pc]
  cases c <;> rfl

end

/-- Settles O35: a number below 16 and one above 15 are the two answers of `keyOf`. -/
theorem skipOnKey : Obligations.SkipOnKey := by
  unfold Obligations.SkipOnKey
  refine ⟨encoded_of_mnemonic (name := "EX9E") rfl, encoded_of_mnemonic (name := "EXA1") rfl,
    fun x s => ⟨fun h => ?_, fun h => ?_⟩⟩
  · have hkey := keyOf_slot (s.reg x) h
    exact ⟨⟨_, completes_of_ok_pc (effectOf_opEX9E_of_ok hkey) fun _ => id, skip_pc s _ _⟩,
      ⟨_, completes_of_ok_pc (effectOf_opEXA1_of_ok hkey) fun _ => id, skipUnless_pc _ _⟩⟩
  · have hkey := keyOf_outside (s.reg x) h
    exact ⟨takesFault_of_error (effectOf_opEX9E_of_error hkey), takesFault_of_error (effectOf_opEXA1_of_error hkey)⟩

/-! ## Waiting for a key (R296) -/

section
variable {s : State} {x : Reg}

theorem effectOf_opFX0A_of_nil (h : s.pressedKeys = []) : effectOf (.opFX0A x) s = .ok s.rewind := by
  rw [effectOf, h]

theorem effectOf_opFX0A_of_cons {k : Key} {ks : List Key} (h : s.pressedKeys = k :: ks) :
    effectOf (.opFX0A x) s = .ok (s.drawn.setReg x (mod256 (s.selectKey k ks).val)) := by
  rw [effectOf, h]

/-- The rewind undoes the fetch's advance of PC. -/
theorem rewind_advance (op : Word) : (s.advance op).rewind = { s with opc := op } := by
  rw [State.rewind, State.advance, BitVec.add_sub_cancel]

/-- With no key pressed, the state FX0A leaves is the one before its fetch but for OPC. -/
theorem keyWait_effect (h : ∀ k, s.pressed k = false) :
    effectOf (.opFX0A x) (s.advance (encode (.opFX0A x))) = .ok { s with opc := encode (.opFX0A x) } := by
  rw [← rewind_advance]
  exact effectOf_opFX0A_of_nil (s.pressedKeys_nil h)

/-- The table lets FX0A write V[x] and the draws too, so the frame is read off the state it leaves. -/
theorem keyWait_completes (h : ∀ k, s.pressed k = false) :
    Completes (.opFX0A x) s { s with opc := encode (.opFX0A x) } (fun _ => False) :=
  ⟨exec_of_ok (keyWait_effect h), rfl, (opc_frame s _).mono fun _ hp => .inl (.inl hp)⟩

/-- V[x] holds the number of the key selected, one of those pressed: it fits a byte. -/
theorem keyLoad_completes (h : ∃ k, s.pressed k = true) :
    ∃ t k, Completes (.opFX0A x) s t (fun p => p = .v x ∨ p = .draws) ∧ t.pc = s.pc + 2 ∧
      s.pressed k = true ∧ (t.reg x).toNat = k.val ∧ t.draws = s.draws + 1 := by
  obtain ⟨pressedKey, hk⟩ := h
  obtain ⟨k, ks, hkeys⟩ := List.exists_cons_of_ne_nil (List.ne_nil_of_mem ((s.mem_pressedKeys pressedKey).2 hk))
  have hselected := State.selectKey_mem (s.advance (encode (.opFX0A x))) k ks
  rw [← hkeys, State.mem_pressedKeys] at hselected
  refine ⟨_, _, completes_of_ok (effectOf_opFX0A_of_cons hkeys) fun _ hp => hp.imp .inr .symm, rfl, hselected, ?_, rfl⟩
  rw [State.reg_setReg_same]
  exact mod256_toNat_of_lt (by omega)

end

/-- Settles O36: no key pressed and some key pressed are the two cases of the list of pressed keys. -/
theorem waitForKey : Obligations.WaitForKey := by
  unfold Obligations.WaitForKey
  refine ⟨encoded_of_mnemonic (name := "FX0A") rfl, fun x s => ⟨fun hnone => ?_, keyLoad_completes⟩⟩
  exact ⟨_, keyWait_completes hnone, rfl⟩

/-! ## The timer rule as numbers (60_exceptions.md R340, R341) -/

section
variable (s : State)

theorem countTimers_frame : Frame (fun p => p = .dt ∨ p = .st ∨ p = .emitted) s s.countTimers := by
  rw [countTimers_eq]
  intro p hp
  cases p with
  | dt => exact absurd (.inl rfl) hp
  | st => exact absurd (.inr (.inl rfl)) hp
  | emitted => exact absurd (.inr (.inr rfl)) hp
  | _ => rfl

theorem countTimers_dt_toNat : s.countTimers.dt.toNat = s.dt.toNat - 1 := by
  rw [countTimers_eq]
  exact countdown_toNat s.dt

theorem countTimers_st_toNat : s.countTimers.st.toNat = s.st.toNat - 1 := by
  rw [countTimers_eq]
  exact countdown_toNat s.st

/-- Whether a tone is requested is read off ST before the count. -/
theorem countTimers_emitted :
    s.countTimers.emitted = s.emitted ++ if 0 < s.st.toNat then [.toneRequest] else [] := by
  by_cases hst : s.st = 0
  · simp [countTimers_eq, hst]
  · have hpos : 0 < s.st.toNat := Nat.pos_of_ne_zero fun h => hst (BitVec.eq_of_toNat_eq h)
    simp only [countTimers_eq, if_neg hst, if_pos hpos]

theorem countTimers_run : s.countTimers.run = s.run := by
  rw [countTimers_eq]

theorem countTimers_fetch : fetch s.countTimers = fetch s := by
  rw [countTimers_eq]
  rfl

theorem countTimers_pressed (k : Key) : s.countTimers.pressed k = s.pressed k := by
  rw [countTimers_eq]
  rfl

end

section
variable {q : Nat} {s : State}

theorem tickWith_stopped (h : s.run = .stopped) : tickWith q s = .next s.countTimers := by
  rw [tickWith, h]

theorem tickWith_running (h : s.run = .running) : tickWith q s = quotaLoop q s.countTimers := by
  rw [tickWith, h]

/-- The tones of one tick from ST = `n` and of `k` ticks after it are those of `k + 1` ticks. -/
theorem tone_replicate_succ (k n : Nat) :
    (if 0 < n then [Event.toneRequest] else []) ++ List.replicate (min k (n - 1)) .toneRequest =
      List.replicate (min (k + 1) n) .toneRequest := by
  cases n with
  | zero => simp
  | succ n => simp [Nat.succ_min_succ, List.replicate_succ]

/-- The timers over `k` ticks of a Stopped machine, by induction on `k`: each tick is the timer rule. -/
theorem ticks_stopped (h : s.run = .stopped) (k : Nat) :
    ∃ u, applyCalls q (List.replicate k .tick) s = .next u ∧
      u.dt.toNat = s.dt.toNat - k ∧ u.st.toNat = s.st.toNat - k ∧
      u.emitted = s.emitted ++ List.replicate (min k s.st.toNat) .toneRequest := by
  induction k generalizing s with
  | zero => exact ⟨s, rfl, rfl, rfl, by simp⟩
  | succ k ih =>
    have hrun : s.countTimers.run = .stopped := (countTimers_run s).trans h
    obtain ⟨u, hticks, hdt, hst, hemitted⟩ := ih hrun
    refine ⟨u, ?_, ?_, ?_, ?_⟩
    · rw [List.replicate_succ, applyCalls, HostCall.apply, tickWith_stopped h]
      exact hticks
    · rw [hdt, countTimers_dt_toNat, Nat.sub_sub, Nat.add_comm]
    · rw [hst, countTimers_st_toNat, Nat.sub_sub, Nat.add_comm]
    · rw [hemitted, countTimers_st_toNat, countTimers_emitted, List.append_assoc, tone_replicate_succ]

end

/-! ## Moves of the timers (R300, R302, R304) -/

/-- Settles O37: each is one write; FX15 and FX18 keep Run, so the ticks after them are a Stopped machine's. -/
theorem timerMoves : Obligations.TimerMoves := by
  unfold Obligations.TimerMoves
  refine ⟨encoded_of_mnemonic (name := "FX07") rfl, encoded_of_mnemonic (name := "FX15") rfl,
    encoded_of_mnemonic (name := "FX18") rfl, fun x s => ⟨?_, ?_, ?_⟩⟩
  · exact setReg_completes rfl fun _ => id
  · refine ⟨_, completes_of_ok rfl fun _ => .inr, rfl, rfl, fun hrun q k => ?_⟩
    obtain ⟨u, hticks, hdt, -⟩ := ticks_stopped (q := q) (s := { s.advance _ with dt := s.reg x }) hrun k
    exact ⟨u, hticks, hdt⟩
  · refine ⟨_, completes_of_ok rfl fun _ => .inr, rfl, rfl, fun hrun q k => ?_⟩
    obtain ⟨u, hticks, -, hst, hemitted⟩ := ticks_stopped (q := q) (s := { s.advance _ with st := s.reg x }) hrun k
    exact ⟨u, hticks, hst, hemitted⟩

/-! ## The wait under tick (R296, decision D24) -/

section
variable {s : State} {x : Reg}

theorem exec1_keyWait (hf : fetch s = .ok (encode (.opFX0A x))) (hnone : ∀ k, s.pressed k = false) :
    exec1 s = .next { s with opc := encode (.opFX0A x) } :=
  (exec1_decoded hf (decode_encode _)).trans (keyWait_completes hnone).1

/-- Each execution of the quota finds the machine where the one before did, for a write of OPC changes neither the fetch nor
the keypad. -/
theorem quotaLoop_keyWait (n : Nat) (hsafe : s.safe) (hf : fetch s = .ok (encode (.opFX0A x)))
    (hnone : ∀ k, s.pressed k = false) : ∃ op, quotaLoop n s = .next { s with opc := op } := by
  induction n generalizing s with
  | zero => exact ⟨s.opc, rfl⟩
  | succ n ih =>
    rw [quotaLoop_succ hsafe (exec1_keyWait hf hnone)]
    exact ih (s := { s with opc := _ }) hsafe hf hnone

end

/-- Settles O50: the timer rule leaves the machine at FX0A with no key pressed, and there the quota writes OPC only. -/
theorem keyWaitSpendsTheQuota : Obligations.KeyWaitSpendsTheQuota := by
  unfold Obligations.KeyWaitSpendsTheQuota
  intro q x s hrun hf hnone
  have hsafe : s.countTimers.safe := by
    rw [State.safe, countTimers_run, hrun]
    decide
  obtain ⟨op, hloop⟩ := quotaLoop_keyWait (s := s.countTimers) (x := x) q hsafe
    ((countTimers_fetch s).trans hf) fun k => (countTimers_pressed s k).trans (hnone k)
  refine ⟨_, (tickWith_running hrun).trans hloop, ?_, countTimers_dt_toNat s, countTimers_st_toNat s,
    countTimers_emitted s⟩
  exact ((countTimers_frame s).mono fun _ => .inr).trans ((opc_frame _ op).mono fun _ => .inl)

end Sys2Proof.Machine
end

section
/-! PROOFS. Faults and the timer rule (60_exceptions.md): the fault of a fetch that leaves memory and of an instruction, each
read off the way an execution can end, the Faulted state under each call, and the tick's count before its quota. -/

namespace Sys2Proof.Machine

/-! ## The fault of a fetch (R321) -/

section
variable {s : State}

theorem step_of_fetch_error {e : Raise} (hsafe : s.safe) (h : fetch s = .error e) :
    step s = .next (s.takeFault none e) := by
  rw [step_safe hsafe, exec1, h]

/-- Settles O8: of PC and 0x1000, the first byte outside memory is at the larger. -/
theorem fetchOutsideMemoryTakesFault : Obligations.FetchOutsideMemoryTakesFault := by
  unfold Obligations.FetchOutsideMemoryTakesFault
  intro s hsafe hpc
  rw [← max_def']
  exact step_of_fetch_error hsafe (fetch_pastEnd hpc)

/-! ## The fault of an instruction (R325, R326) -/

/-- No effect writes Run, so an instruction that leaves the machine Faulted has ended in the fault its effect raises. -/
theorem exec_faulted {ins : Instr} {t : State} (hsafe : s.safe) (h : exec ins s = .next t) (ht : t.run = .faulted) :
    ∃ e, t = s.takeFault (some (encode ins)) e := by
  obtain hok | ⟨e, -, heq⟩ := exec_cases h
  · exact absurd ((effectOf_opc_run hok).2.symm.trans ht) hsafe
  · exact ⟨e, heq⟩

end

/-- Settles O9: the fault is taken in the state from before the fetch. -/
theorem instructionFaultsArePrecise : Obligations.InstructionFaultsArePrecise := by
  unfold Obligations.InstructionFaultsArePrecise
  intro ins s t hsafe h ht
  obtain ⟨e, rfl⟩ := exec_faulted hsafe h ht
  exact ⟨takeFault_frame s _ e, _, State.takeFault_fault s _ e, rfl, rfl⟩

/-! ## Faulted is final (R327, decision D9) -/

/-- Settles O10: no call but reset writes Run or Fault of a Faulted machine. -/
theorem faultedIsFinalUntilReset : Obligations.FaultedIsFinalUntilReset := by
  unfold Obligations.FaultedIsFinalUntilReset
  intro q s hrun
  refine ⟨step_faulted hrun, tickWith_faulted hrun, runOp_faulted hrun, stopOp_faulted hrun, fun c t hc h => ?_, rfl, rfl⟩
  obtain ⟨ks, m, rom, rfl⟩ := apply_faulted hrun hc h
  exact ⟨hrun, rfl⟩

/-! ## The timer rule at the start of a tick (R340, R341) -/

/-- Settles O48: the state between the count and the quota is the timer rule's. -/
theorem tickCountsTimersFirst : Obligations.TickCountsTimersFirst := by
  unfold Obligations.TickCountsTimersFirst
  refine ⟨rfl, rfl, fun _ => ⟨rfl, rfl⟩, fun q s _ => ⟨s.countTimers, countTimers_frame s, ?_⟩⟩
  exact ⟨countTimers_dt_toNat s, countTimers_st_toNat s, countTimers_emitted s, tickWith_stopped, tickWith_running⟩

end Sys2Proof.Machine
end

section
/-! PROOFS. The operation reset (70_reset_and_hazards.md): the memory it leaves, whatever FONT the machine has, and the machines
on which it changes nothing. -/

namespace Sys2Proof.Machine

/-! ## The state after reset (R360) -/

/-- Where Rom fits, memory after reset is Rom over FONT and zeros (20_memory.md R83). -/
theorem resetOp_get {s : State} (hfit : s.rom.base + s.rom.bytes.length ≤ memSize) (a : Nat) :
    (resetOp s).mem.get a =
      if h : s.rom.base ≤ a ∧ a - s.rom.base < s.rom.bytes.length then s.rom.bytes[a - s.rom.base]'h.2
      else if h : a < 80 then s.font[a] else 0 := by
  rw [resetOp_mem, Memory.get_load _ _ _ _ hfit, State.constructed_get]

@[simp] theorem resetOp_reg (s : State) (r : Reg) : (resetOp s).reg r = 0 := State.reset_reg r

@[simp] theorem resetOp_pressed (s : State) (k : Key) : (resetOp s).pressed k = false := State.reset_pressed k

@[simp] theorem resetOp_pixel (s : State) (x : Fin 64) (y : Fin 32) :
    Framebuffer.pixel (resetOp s).fb x y = false := pixel_blank x y

/-- Settles O53: a byte of Rom hides FONT and zeros, and every other part is a field of `State.reset` or is kept. -/
theorem resetReinitialises : Obligations.ResetReinitialises := by
  unfold Obligations.ResetReinitialises
  intro s hfit
  refine ⟨resetOp_get hfit, resetOp_reg s, rfl, rfl, rfl, rfl, rfl, rfl, resetOp_pressed s, resetOp_pixel s, ?_⟩
  exact ⟨rfl, rfl, rfl, rfl, rfl, rfl, rfl⟩

/-! ## Where reset changes nothing (R362, R365, decision D18) -/

/-- The default FONT is what memory reads as where it lists nothing (log entry 10). -/
theorem constructed_default_get (a : Nat) :
    (State.constructed defaultFont defaultStackDepth).mem.get a = Memory.get [] a := by
  rw [State.constructed_get, Memory.get_nil, unlistedByte]
  split
  · next h => exact (List.getD_eq_getElem _ 0 h).symm
  · next h => exact (List.getD_eq_default _ 0 (not_lt.1 h)).symm

/-- So the default machine's memory, being canonical, lists nothing at construction. -/
theorem constructed_default_mem : (State.constructed defaultFont defaultStackDepth).mem = [] :=
  Memory.ext_of_wf (State.constructed_wf _ _) Memory.wf_nil constructed_default_get

theorem constructed_default : State.constructed defaultFont defaultStackDepth = State.reset :=
  congrArg (fun m => { State.reset with mem := m }) constructed_default_mem

/-- An image that `loadProgram` accepts is copied to memory and retained in Rom. -/
theorem loadProgram_ok {bytes : List Byte} {base : Nat} {s t : State} (h : loadProgram bytes base s = (t, .ok)) :
    t = { s with mem := s.mem.load base bytes, rom := ⟨bytes, base⟩ } := by
  by_cases hfit : base + bytes.length ≤ memSize
  · rw [loadProgram_fits s hfit] at h
    exact (congrArg Prod.fst h).symm
  · rw [loadProgram_tooLarge s (by omega)] at h
    exact nomatch congrArg Prod.snd h

/-- Settles O54: reset copies Rom over the construction state's memory, and there it was copied already. -/
theorem resetAfterLoadChangesNothing : Obligations.ResetAfterLoadChangesNothing := by
  unfold Obligations.ResetAfterLoadChangesNothing
  refine ⟨constructed_default, fun font depth => ⟨rfl, fun bytes base t hload => ?_⟩⟩
  rw [loadProgram_ok hload]
  rfl

end Sys2Proof.Machine
end
